-- ==== Sys2Proof/Word.lean ====
section
/-! DEFINITION. The bit widths of the block (spec/00_scope.md R7): every value is unsigned and bit 0 is its least
significant bit.  Nothing here computes; the field and byte-order helpers stand in Decode.lean. -/

namespace Sys2Proof

/-- A 4-bit slice of an instruction word (R61, glossary "Nibble"). -/
abbrev Nibble := BitVec 4

/-- One byte of `memory` or of a load source, and the width of the immediate `kk` (R61). -/
abbrev Byte := BitVec 8

/-- The 12-bit address immediate `nnn` (R61). -/
abbrev Addr := BitVec 12

namespace Config

/-- `WORD_BITS`: the width of `opcode` (R6). -/
@[simp] abbrev wordBits : Nat := 16

/-- `PC_BITS`: the storage width of `pc` (R6, D2). -/
@[simp] abbrev pcBits : Nat := 16

/-- `LEN_BITS`: the storage width of `loaded_length` (R6, D3). -/
@[simp] abbrev lenBits : Nat := 16

end Config

/-- An instruction word. -/
abbrev Word := BitVec Config.wordBits

/-- A stored value of the Decode Cursor `pc`. -/
abbrev Cursor := BitVec Config.pcBits

/-- A stored value of `loaded_length`. -/
abbrev Length := BitVec Config.lenBits

/-- A string of 7-bit characters of the output (R198): a token, an operand text, or a whole line with its line feed. -/
abbrev Text := List Char

/-- One output line, its terminating line feed included (R190, R198). -/
abbrev Line := Text

end Sys2Proof
end

