-- ==== Sys2Proof/Config.lean ====
section
/-! DEFINITION. The parameters of the block at the values this hardware takes (spec/00_scope.md R6), and the values the
spec leaves open as opaque constants.  The widths `WORD_BITS`, `PC_BITS` and `LEN_BITS` stand
in Word.lean, and the parameter `TEXT_TABLE` in Machine/TextTable.lean. -/

namespace Sys2Proof

/-- The policies D4 names for an odd `loaded_length` (R248, spec/93_implementation_defined.md U3). -/
inductive OddLengthPolicy where
  /-- The "current behavior": the last byte is decoded with a padding zero. -/
  | padZero
  /-- "make `load` of an odd length refused" (R248); not behaviour the document describes. -/
  | refuseOdd
  /-- Named by the spec and not specified (U3). -/
  | errorOdd
  deriving DecidableEq, Repr

namespace Config

/-- `MEM_SIZE`: bytes of `memory`, addresses 0x000 to 0xFFF (R6, R32). -/
def memSize : Nat := 0x1000

/-- `LOAD_ORIGIN`: the first address `load` writes, and the initial `pc` (R6). -/
def loadOrigin : Nat := 0x200

/-- `LOAD_CAPACITY`: the largest source length `load` accepts (R6, R211). -/
def loadCapacity : Nat := 0xE00

/-- `INSTR_BYTES`: bytes read, and cursor advance, per performed decode step (R6). -/
def instrBytes : Nat := 2

/-- `ENTRY_COUNT`: rows of the dispatch table (R6, R66). -/
def entryCount : Nat := 38

/-- `COL_MNEMONIC_PAD`: the columns a mnemonic is padded to when operands follow (R6, R191, D15). -/
def colMnemonicPad : Nat := 8

/-- `ODD_LENGTH_POLICY` (R6, R248, D4): the default, which is the only specified value. -/
def oddLengthPolicy : OddLengthPolicy := .padZero

/-- FREE VALUE.  The bytes a short read leaves at the load origin are "unspecified" (R92, R212, U2): the `k`-th byte ever
left open is `freeByte k`, of which nothing is known. -/
opaque freeByte : Nat → Byte

/-- FREE VALUE.  The text of an error's "human-readable message" (R26): U10 lets it be any value. -/
opaque freeMessage : Nat → Text

end Config

end Sys2Proof
end

