-- ==== Sys2Proof/Syntax.lean ====
section
/-! DEFINITION. What the block decodes: the 38 entries of the dispatch table (spec/30_encoding.md R66) as the constructors
of `Instr`, and the vocabulary of the table's text columns (spec/47_line_format.md R195, R199).  An instruction carries
EVERY bit of its word that the table does not fix, the don't-care bits of R69 included, because the line shows the whole
word (R194). -/

namespace Sys2Proof

/-- One decoded instruction word: a row of spec/opcode_table.json with its fields.  The fields keep the spec's names:
`b`, `c`, `d` nibbles, `kk` byte, `nnn` address (R61). -/
inductive Instr where
  /-- `SYS` (row 0, R112). -/
  | sys (nnn : Addr)
  /-- `CLS` (row 1, R110). -/
  | cls
  /-- `RET` (row 2, R111). -/
  | ret
  /-- `JP_addr` (row 3, R120). -/
  | jpAddr (nnn : Addr)
  /-- `CALL` (row 4, R121). -/
  | call (nnn : Addr)
  /-- `SE_byte` (row 5, R122). -/
  | seByte (b : Nibble) (kk : Byte)
  /-- `SNE_byte` (row 6, R123). -/
  | sneByte (b : Nibble) (kk : Byte)
  /-- `SE_reg` (row 7, R124); `d` is the don't-care nibble of R69 (a). -/
  | seReg (b c d : Nibble)
  /-- `LD_byte` (row 8, R125). -/
  | ldByte (b : Nibble) (kk : Byte)
  /-- `ADD_byte` (row 9, R126). -/
  | addByte (b : Nibble) (kk : Byte)
  /-- `LD_reg` (row 10, R140). -/
  | ldReg (b c : Nibble)
  /-- `OR` (row 11, R141). -/
  | orReg (b c : Nibble)
  /-- `AND` (row 12, R142). -/
  | andReg (b c : Nibble)
  /-- `XOR` (row 13, R143). -/
  | xorReg (b c : Nibble)
  /-- `ADD_reg` (row 14, R144). -/
  | addReg (b c : Nibble)
  /-- `SUB` (row 15, R145). -/
  | sub (b c : Nibble)
  /-- `SHR` (row 16, R146). -/
  | shr (b c : Nibble)
  /-- `SUBN` (row 17, R147). -/
  | subn (b c : Nibble)
  /-- `SHL` (row 18, R148). -/
  | shl (b c : Nibble)
  /-- `UNK_8` (row 19, R149); `d` is the undefined selector. -/
  | unk8 (b c d : Nibble)
  /-- `SNE_reg` (row 20, R127); `d` is the don't-care nibble of R69 (a). -/
  | sneReg (b c d : Nibble)
  /-- `LD_I` (row 21, R128). -/
  | ldI (nnn : Addr)
  /-- `JP_V0` (row 22, R129). -/
  | jpV0 (nnn : Addr)
  /-- `RND` (row 23, R130). -/
  | rnd (b : Nibble) (kk : Byte)
  /-- `DRW` (row 24, R131). -/
  | drw (b c d : Nibble)
  /-- `SKP` (row 25, R160). -/
  | skp (b : Nibble)
  /-- `SKNP` (row 26, R161). -/
  | sknp (b : Nibble)
  /-- `UNK_E` (row 27, R162); `b` is the don't-care nibble of R69 (b). -/
  | unkE (b : Nibble) (kk : Byte)
  /-- `LD_Vx_DT` (row 28, R170). -/
  | ldVxDT (b : Nibble)
  /-- `LD_Vx_K` (row 29, R171). -/
  | ldVxK (b : Nibble)
  /-- `LD_DT_Vx` (row 30, R172). -/
  | ldDTVx (b : Nibble)
  /-- `LD_ST_Vx` (row 31, R173). -/
  | ldSTVx (b : Nibble)
  /-- `ADD_I_Vx` (row 32, R174). -/
  | addIVx (b : Nibble)
  /-- `LD_F_Vx` (row 33, R175). -/
  | ldFVx (b : Nibble)
  /-- `LD_B_Vx` (row 34, R176). -/
  | ldBVx (b : Nibble)
  /-- `LD_mI_Vx` (row 35, R177). -/
  | ldMIVx (b : Nibble)
  /-- `LD_Vx_mI` (row 36, R178). -/
  | ldVxMI (b : Nibble)
  /-- `UNK_F` (row 37, R179); `b` is the don't-care nibble of R69 (b). -/
  | unkF (b : Nibble) (kk : Byte)
  deriving DecidableEq, Repr

/-- The entry names of the dispatch table, in the order of R66 (D27: labels only, never printed). -/
inductive Entry where
  | SYS | CLS | RET | JP_addr | CALL | SE_byte | SNE_byte | SE_reg | LD_byte | ADD_byte
  | LD_reg | OR | AND | XOR | ADD_reg | SUB | SHR | SUBN | SHL | UNK_8
  | SNE_reg | LD_I | JP_V0 | RND | DRW | SKP | SKNP | UNK_E
  | LD_Vx_DT | LD_Vx_K | LD_DT_Vx | LD_ST_Vx | ADD_I_Vx | LD_F_Vx | LD_B_Vx | LD_mI_Vx | LD_Vx_mI | UNK_F
  deriving DecidableEq, Repr

/-- The seven formats of R62. -/
inductive Format where
  | FIXED | NNN | XKK | XY | XYN | XSEL | KKRAW
  deriving DecidableEq, Repr

/-- A row of the opcode map (R66): a word `w` matches it when `w &&& mask = code`; rows of priority 0 are tried first. -/
structure OpcodeRow where
  entry : Entry
  code : Word
  mask : Word
  priority : Nat
  format : Format
  deriving DecidableEq, Repr

/-- The six fields the extractor takes from every word (R61, R103). -/
structure Fields where
  a : Nibble
  b : Nibble
  c : Nibble
  d : Nibble
  kk : Byte
  nnn : Addr
  deriving DecidableEq, Repr

/-- The five operand kinds (R195). -/
inductive Operand where
  | reg (r : Nibble)
  | byte (k : Byte)
  | addr (t : Addr)
  | nib (q : Nibble)
  | lit (token : Text)
  deriving DecidableEq, Repr

/-- An operand column of `TEXT_TABLE` (R199): which extracted field, in which kind, or a literal token. -/
inductive OperandTemplate where
  | regB | regC | byteKK | addrNNN | nibD
  | lit (token : Text)
  deriving DecidableEq, Repr

/-- The `ground` column of `TEXT_TABLE` (R199): whether the document prints the row or the spec chose it. -/
inductive Ground where
  | source | decision
  deriving DecidableEq, Repr

/-- A row of `TEXT_TABLE` (R199). -/
structure TextRow where
  mnemonic : Text
  ops : List OperandTemplate
  ground : Ground
  deriving DecidableEq, Repr

/-- The ephemeral Instruction record of one decode (R104): "produced per decode call, not stored". -/
structure InstrRecord where
  address : Nat
  opcode : Word
  fields : Fields
  entry : Entry
  ops : List Operand
  deriving DecidableEq, Repr

end Sys2Proof
end

