-- ==== Sys2Proof/Machine/State.lean ====
section
/-! DEFINITION. The state of the block (spec/10_state.md), of the driver's requests and of the model's records, as plain
data; the refusals and the fault a step can end in; and the state right after reset. -/

namespace Sys2Proof.Machine

/-- `memory` as the listed bytes, addresses strictly rising and no byte 0x00: an unlisted address of the block reads as
0x00 (R32, R33: "allocated and zero-filled"). -/
abbrev Memory := List Host.Cell

/-- The block's lifecycle (R25, D21). -/
inductive Phase where
  /-- `UNINIT`: before the first `initialize`. -/
  | uninit
  /-- `EMPTY`: initialised, nothing loaded. -/
  | empty
  /-- `LOADED`: a `load` succeeded. -/
  | loaded
  /-- `FAILED`: a `load` raised an error. -/
  | failed
  deriving DecidableEq, Repr

/-- The two error kinds (R26, R210, R213). -/
inductive ErrorKind where
  | capacity | io
  deriving DecidableEq, Repr

/-- "A structured error carrying a machine-checkable kind and a human-readable message" (R26). -/
structure LoadError where
  kind : ErrorKind
  message : Text
  deriving DecidableEq, Repr

/-- The argument of `load` (R91).  `short got lack` is `Short(n, m, s)` with `s = got`, `m = got.length` and
`n = m + lack + 1`, so that `m < n` holds of every value. -/
inductive Source where
  /-- `OpenFail`: "the source cannot be opened". -/
  | openFail
  /-- A short read: fewer bytes are read than the source's reported length. -/
  | short (got : List Byte) (lack : Nat)
  /-- `Bytes(n, s)`: all `n = s.length` bytes are read. -/
  | bytes (s : List Byte)
  deriving DecidableEq, Repr

/-- The four operations of the block, by name (R9). -/
inductive OpName where
  | init | load | isEnd | decodeStep
  deriving DecidableEq, Repr

/-- One move of the driver: an operation with its argument (R9, R244). -/
inductive Request where
  | init
  | load (src : Source)
  | isEnd (cursor : Nat)
  | decodeStep
  deriving DecidableEq, Repr

/-- What the latest operation returned to the driver (R90, R92, R94, R100). -/
inductive Reply where
  /-- `initialize` returns nothing. -/
  | nothing
  /-- `load` returned success. -/
  | success
  /-- `load` returned a structured error. -/
  | error (e : LoadError)
  /-- `is_end` returned a Boolean. -/
  | ended (b : Bool)
  /-- `decode_step` returned one line. -/
  | line (l : Line)
  /-- `decode_step` returned nothing: the end predicate was true. -/
  | noLine
  deriving DecidableEq, Repr

/-- Where the driver stands in its loop `while not is_end(pc)` (R244). -/
inductive Driver where
  /-- It asks `is_end(pc)` next: nothing it was told of the present cursor is still in force. -/
  | asks
  /-- `is_end(pc)` has just been answered false: `decode_step` is next. -/
  | decodes
  /-- `is_end(pc)` has just been answered true: it has terminated with status zero. -/
  | ended
  deriving DecidableEq, Repr

/-- Why a step ends in a fault. -/
inductive Fault where
  /-- Raised by `step` when the phase is `FAILED` and the driver has no request: the run has ended in failure (R222
  "Fault: a `load` error", R244 "terminate with non-zero status", R245).  SAFE: nothing runs after it. -/
  | runFailed
  deriving DecidableEq, Repr

/-- Why a step is refused. -/
inductive Refusal where
  /-- An instruction of the table that has no meaning yet; no arm raises it.  SAFE. -/
  | notModelled (mnemonic : String)
  /-- Raised by every operation but `initialize` that the phase does not admit (R25, R221).  SAFE: the spec gives the
  request no step. -/
  | notAdmitted (op : OpName) (phase : Phase)
  /-- Raised by `decode_step` when the word at the cursor is not wholly inside `memory`, and by a meaning whose address
  has no three-digit text (R47, R109, R221, D22); no reachable step raises it.  SAFE. -/
  | addressOutOfRange (address : Nat)
  /-- Raised by `load` of an odd length under a policy other than `pad_zero` (R248, D4); never under this
  configuration.  SAFE. -/
  | oddLength (policy : OddLengthPolicy)
  deriving DecidableEq, Repr

/-- The whole machine. -/
structure State where
  /-- The Program Buffer's image (R32). -/
  memory : Memory
  /-- "count of bytes actually loaded, measured from address 0x200" (R24). -/
  loadedLength : Length
  /-- The Decode Cursor: "the address of the next instruction to decode" (R21). -/
  pc : Cursor
  /-- The lifecycle phase (R25). -/
  phase : Phase
  /-- The output trace: the lines returned since `initialize`, in order (R27). -/
  out : List Line
  /-- The model's record of the latest return value (R26: a return value, not stored state of the block). -/
  reply : Reply
  /-- The driver's requests not yet performed, oldest first (R9, R244). -/
  requests : List Request
  /-- The driver's place in its loop (R244). -/
  driver : Driver
  /-- The model's counter of free values already used. -/
  freeCount : Nat
  deriving DecidableEq, Repr

/-- The machine right after reset, that is after `initialize` (R33, R240), with no request waiting and the driver's loop
still to start (DESIGN CHOICE, log entry 4). -/
def State.reset : State where
  memory := []
  loadedLength := 0x0000#16
  pc := 0x0200#16
  phase := .empty
  out := []
  reply := .nothing
  requests := []
  driver := .asks
  freeCount := 0

end Sys2Proof.Machine
end

