-- ==== Sys2Proof/Machine/Flags.lean ====
section
/-! DEFINITION. The block has no status flag, condition code or predicate register (spec/10_state.md R29), so no flag is
computed anywhere.  What it tests instead are two pure predicates: the end predicate (spec/40_buffer_operations.md R94) and
the admission of an operation in a phase (spec/10_state.md R25). -/

namespace Sys2Proof.Machine

/-- The first address past the loaded region, a natural number computed without wrap (R94, R106). -/
def loadedEnd (s : State) : Nat := Config.loadOrigin + s.loadedLength.toNat

/-- `is_end(cursor)` (R94): "the sole termination predicate for decoding", an unsigned comparison on naturals (D25). -/
def isEnd (s : State) (cursor : Nat) : Bool := decide (loadedEnd s ≤ cursor)

/-- The column "operations admitted" of R25. -/
def admits : Phase → OpName → Bool
  | _, .init => true
  | .empty, .load => true
  | .uninit, .load | .loaded, .load | .failed, .load => false
  | .empty, .isEnd | .loaded, .isEnd => true
  | .uninit, .isEnd | .failed, .isEnd => false
  | .empty, .decodeStep | .loaded, .decodeStep => true
  | .uninit, .decodeStep | .failed, .decodeStep => false

/-- The operation a request asks for. -/
def Request.op : Request → OpName
  | .init => .init
  | .load _ => .load
  | .isEnd _ => .isEnd
  | .decodeStep => .decodeStep

end Sys2Proof.Machine
end

