-- ==== Sys2Proof/WellFormed.lean ====
section
/-! DEFINITION. Which instructions are the meaning of a word.  A fall-back row (priority 1 of spec/30_encoding.md R66) is
selected only when no defined row of its family matches, so its fields must avoid the defined selectors. -/

namespace Sys2Proof

/-- The full `nnn` values that family 0 defines (R65): `CLS` and `RET`. -/
def family0Selectors : List Addr := [0x0E0#12, 0x0EE#12]

/-- The nine values of `d` that family 8 defines (R65). -/
def family8Selectors : List Nibble := [0x0#4, 0x1#4, 0x2#4, 0x3#4, 0x4#4, 0x5#4, 0x6#4, 0x7#4, 0xE#4]

/-- The two values of `kk` that family E defines (R65). -/
def familyESelectors : List Byte := [0x9E#8, 0xA1#8]

/-- The nine values of `kk` that family F defines (R65). -/
def familyFSelectors : List Byte :=
  [0x07#8, 0x0A#8, 0x15#8, 0x18#8, 0x1E#8, 0x29#8, 0x33#8, 0x55#8, 0x65#8]

/-- An instruction is well formed when some word decodes to it: only the four fall-back rows restrict a field
(R112, R149, R162, R179). -/
def Instr.wf : Instr → Bool
  | .sys nnn => decide (nnn ∉ family0Selectors)
  | .unk8 _ _ d => decide (d ∉ family8Selectors)
  | .unkE _ kk => decide (kk ∉ familyESelectors)
  | .unkF _ kk => decide (kk ∉ familyFSelectors)
  | .cls | .ret | .jpAddr _ | .call _ | .seByte _ _ | .sneByte _ _ | .seReg _ _ _ | .ldByte _ _ | .addByte _ _
  | .ldReg _ _ | .orReg _ _ | .andReg _ _ | .xorReg _ _ | .addReg _ _ | .sub _ _ | .shr _ _ | .subn _ _ | .shl _ _
  | .sneReg _ _ _ | .ldI _ | .jpV0 _ | .rnd _ _ | .drw _ _ _ | .skp _ | .sknp _
  | .ldVxDT _ | .ldVxK _ | .ldDTVx _ | .ldSTVx _ | .addIVx _ | .ldFVx _ | .ldBVx _ | .ldMIVx _ | .ldVxMI _ => true

end Sys2Proof
end

