-- ==== Sys2Proof/Decode.lean ====
section
/-! DEFINITION. The field extractor, the two-level dispatch (total on every word), the decoder of bytes, and after them the
encoder and the match/mask table of the same encodings (spec/30_encoding.md, spec/41_fetch_and_fields.md R102, R103). -/

namespace Sys2Proof

/-! ### Bytes and fields -/

/-- The word two consecutive bytes hold, the one at the lower address in the high half (R42, R102). -/
def wordOfBytes (hi lo : Byte) : Word := hi ++ lo

/-- The byte a word keeps at the lower address (R42). -/
def highByte (w : Word) : Byte := w.extractLsb' 8 8

/-- The byte a word keeps at the higher address (R42). -/
def lowByte (w : Word) : Byte := w.extractLsb' 0 8

/-- `Fields(opcode)` (R103): the four nibbles, most significant first, and `kk = (c << 4) | d`,
`nnn = (b << 8) | kk`. -/
def fields (opcode : Word) : Fields :=
  let b : Nibble := opcode.extractLsb' 8 4
  let c : Nibble := opcode.extractLsb' 4 4
  let d : Nibble := opcode.extractLsb' 0 4
  let kk : Byte := c ++ d
  { a := opcode.extractLsb' 12 4, b := b, c := c, d := d, kk := kk, nnn := b ++ kk }

/-! ### Dispatch (R65) -/

/-- The second level of family 0, on the full `nnn` (R65, R110 to R113). -/
def decodeFamily0 (f : Fields) : Instr :=
  if f.nnn = 0x0E0#12 then .cls
  else if f.nnn = 0x0EE#12 then .ret
  else .sys f.nnn

/-- The second level of family 8, on `d` (R65, R140 to R149). -/
def decodeFamily8 (f : Fields) : Instr :=
  if f.d = 0x0#4 then .ldReg f.b f.c
  else if f.d = 0x1#4 then .orReg f.b f.c
  else if f.d = 0x2#4 then .andReg f.b f.c
  else if f.d = 0x3#4 then .xorReg f.b f.c
  else if f.d = 0x4#4 then .addReg f.b f.c
  else if f.d = 0x5#4 then .sub f.b f.c
  else if f.d = 0x6#4 then .shr f.b f.c
  else if f.d = 0x7#4 then .subn f.b f.c
  else if f.d = 0xE#4 then .shl f.b f.c
  else .unk8 f.b f.c f.d

/-- The second level of family E, on `kk` (R65, R160 to R162). -/
def decodeFamilyE (f : Fields) : Instr :=
  if f.kk = 0x9E#8 then .skp f.b
  else if f.kk = 0xA1#8 then .sknp f.b
  else .unkE f.b f.kk

/-- The second level of family F, on `kk` (R65, R170 to R179). -/
def decodeFamilyF (f : Fields) : Instr :=
  if f.kk = 0x07#8 then .ldVxDT f.b
  else if f.kk = 0x0A#8 then .ldVxK f.b
  else if f.kk = 0x15#8 then .ldDTVx f.b
  else if f.kk = 0x18#8 then .ldSTVx f.b
  else if f.kk = 0x1E#8 then .addIVx f.b
  else if f.kk = 0x29#8 then .ldFVx f.b
  else if f.kk = 0x33#8 then .ldBVx f.b
  else if f.kk = 0x55#8 then .ldMIVx f.b
  else if f.kk = 0x65#8 then .ldVxMI f.b
  else .unkF f.b f.kk

/-- `Dispatch(opcode)` with the fields the selected entry carries (R65): the first level is 16-way on `a`. -/
def decodeFields (f : Fields) : Instr :=
  match f.a.toNat with
  | 0x0 => decodeFamily0 f
  | 0x1 => .jpAddr f.nnn
  | 0x2 => .call f.nnn
  | 0x3 => .seByte f.b f.kk
  | 0x4 => .sneByte f.b f.kk
  | 0x5 => .seReg f.b f.c f.d
  | 0x6 => .ldByte f.b f.kk
  | 0x7 => .addByte f.b f.kk
  | 0x8 => decodeFamily8 f
  | 0x9 => .sneReg f.b f.c f.d
  | 0xA => .ldI f.nnn
  | 0xB => .jpV0 f.nnn
  | 0xC => .rnd f.b f.kk
  | 0xD => .drw f.b f.c f.d
  | 0xE => decodeFamilyE f
  | _ => decodeFamilyF f  -- 0xF, the only value left to a nibble

/-- The instruction a word stands for.  Total: no word is illegal (R70, R75). -/
def decode (opcode : Word) : Instr := decodeFields (fields opcode)

/-- The reasons the decoder of bytes refuses its input. -/
inductive DecodeReject where
  /-- Fewer than the two bytes of an instruction word are there (R60, R102). -/
  | truncated
  deriving DecidableEq, Repr

/-- The instruction at the front of a byte sequence: every instruction is exactly two bytes, big-endian, with no lookahead
beyond them (R60, R102). -/
def decodeBytes : List Byte → Except DecodeReject Instr
  | hi :: lo :: _ => .ok (decode (wordOfBytes hi lo))
  | [_] | [] => .error .truncated

/-! ### The encoder, from the patterns of R66 -/

/-- The word of an instruction, bit for bit the pattern column of R66. -/
def encode : Instr → Word
  | .sys nnn => 0x0#4 ++ nnn
  | .cls => 0x00E0#16
  | .ret => 0x00EE#16
  | .jpAddr nnn => 0x1#4 ++ nnn
  | .call nnn => 0x2#4 ++ nnn
  | .seByte b kk => 0x3#4 ++ (b ++ kk)
  | .sneByte b kk => 0x4#4 ++ (b ++ kk)
  | .seReg b c d => 0x5#4 ++ (b ++ (c ++ d))
  | .ldByte b kk => 0x6#4 ++ (b ++ kk)
  | .addByte b kk => 0x7#4 ++ (b ++ kk)
  | .ldReg b c => 0x8#4 ++ (b ++ (c ++ 0x0#4))
  | .orReg b c => 0x8#4 ++ (b ++ (c ++ 0x1#4))
  | .andReg b c => 0x8#4 ++ (b ++ (c ++ 0x2#4))
  | .xorReg b c => 0x8#4 ++ (b ++ (c ++ 0x3#4))
  | .addReg b c => 0x8#4 ++ (b ++ (c ++ 0x4#4))
  | .sub b c => 0x8#4 ++ (b ++ (c ++ 0x5#4))
  | .shr b c => 0x8#4 ++ (b ++ (c ++ 0x6#4))
  | .subn b c => 0x8#4 ++ (b ++ (c ++ 0x7#4))
  | .shl b c => 0x8#4 ++ (b ++ (c ++ 0xE#4))
  | .unk8 b c d => 0x8#4 ++ (b ++ (c ++ d))
  | .sneReg b c d => 0x9#4 ++ (b ++ (c ++ d))
  | .ldI nnn => 0xA#4 ++ nnn
  | .jpV0 nnn => 0xB#4 ++ nnn
  | .rnd b kk => 0xC#4 ++ (b ++ kk)
  | .drw b c d => 0xD#4 ++ (b ++ (c ++ d))
  | .skp b => 0xE#4 ++ (b ++ 0x9E#8)
  | .sknp b => 0xE#4 ++ (b ++ 0xA1#8)
  | .unkE b kk => 0xE#4 ++ (b ++ kk)
  | .ldVxDT b => 0xF#4 ++ (b ++ 0x07#8)
  | .ldVxK b => 0xF#4 ++ (b ++ 0x0A#8)
  | .ldDTVx b => 0xF#4 ++ (b ++ 0x15#8)
  | .ldSTVx b => 0xF#4 ++ (b ++ 0x18#8)
  | .addIVx b => 0xF#4 ++ (b ++ 0x1E#8)
  | .ldFVx b => 0xF#4 ++ (b ++ 0x29#8)
  | .ldBVx b => 0xF#4 ++ (b ++ 0x33#8)
  | .ldMIVx b => 0xF#4 ++ (b ++ 0x55#8)
  | .ldVxMI b => 0xF#4 ++ (b ++ 0x65#8)
  | .unkF b kk => 0xF#4 ++ (b ++ kk)

/-- The two bytes an instruction occupies, lowest address first (R42). -/
def encodeBytes (i : Instr) : List Byte := [highByte (encode i), lowByte (encode i)]

/-! ### The opcode map (R66) -/

/-- The row of the dispatch table an instruction belongs to. -/
def Instr.entry : Instr → Entry
  | .sys _ => .SYS
  | .cls => .CLS
  | .ret => .RET
  | .jpAddr _ => .JP_addr
  | .call _ => .CALL
  | .seByte _ _ => .SE_byte
  | .sneByte _ _ => .SNE_byte
  | .seReg _ _ _ => .SE_reg
  | .ldByte _ _ => .LD_byte
  | .addByte _ _ => .ADD_byte
  | .ldReg _ _ => .LD_reg
  | .orReg _ _ => .OR
  | .andReg _ _ => .AND
  | .xorReg _ _ => .XOR
  | .addReg _ _ => .ADD_reg
  | .sub _ _ => .SUB
  | .shr _ _ => .SHR
  | .subn _ _ => .SUBN
  | .shl _ _ => .SHL
  | .unk8 _ _ _ => .UNK_8
  | .sneReg _ _ _ => .SNE_reg
  | .ldI _ => .LD_I
  | .jpV0 _ => .JP_V0
  | .rnd _ _ => .RND
  | .drw _ _ _ => .DRW
  | .skp _ => .SKP
  | .sknp _ => .SKNP
  | .unkE _ _ => .UNK_E
  | .ldVxDT _ => .LD_Vx_DT
  | .ldVxK _ => .LD_Vx_K
  | .ldDTVx _ => .LD_DT_Vx
  | .ldSTVx _ => .LD_ST_Vx
  | .addIVx _ => .ADD_I_Vx
  | .ldFVx _ => .LD_F_Vx
  | .ldBVx _ => .LD_B_Vx
  | .ldMIVx _ => .LD_mI_Vx
  | .ldVxMI _ => .LD_Vx_mI
  | .unkF _ _ => .UNK_F

/-- `Dispatch(opcode) : Entry` (R65). -/
def dispatch (opcode : Word) : Entry := (decode opcode).entry

/-- The row of R66 for each entry: match, mask, priority and format. -/
def Entry.row : Entry → OpcodeRow
  | .SYS => ⟨.SYS, 0x0000#16, 0xF000#16, 1, .NNN⟩
  | .CLS => ⟨.CLS, 0x00E0#16, 0xFFFF#16, 0, .FIXED⟩
  | .RET => ⟨.RET, 0x00EE#16, 0xFFFF#16, 0, .FIXED⟩
  | .JP_addr => ⟨.JP_addr, 0x1000#16, 0xF000#16, 0, .NNN⟩
  | .CALL => ⟨.CALL, 0x2000#16, 0xF000#16, 0, .NNN⟩
  | .SE_byte => ⟨.SE_byte, 0x3000#16, 0xF000#16, 0, .XKK⟩
  | .SNE_byte => ⟨.SNE_byte, 0x4000#16, 0xF000#16, 0, .XKK⟩
  | .SE_reg => ⟨.SE_reg, 0x5000#16, 0xF000#16, 0, .XY⟩
  | .LD_byte => ⟨.LD_byte, 0x6000#16, 0xF000#16, 0, .XKK⟩
  | .ADD_byte => ⟨.ADD_byte, 0x7000#16, 0xF000#16, 0, .XKK⟩
  | .LD_reg => ⟨.LD_reg, 0x8000#16, 0xF00F#16, 0, .XY⟩
  | .OR => ⟨.OR, 0x8001#16, 0xF00F#16, 0, .XY⟩
  | .AND => ⟨.AND, 0x8002#16, 0xF00F#16, 0, .XY⟩
  | .XOR => ⟨.XOR, 0x8003#16, 0xF00F#16, 0, .XY⟩
  | .ADD_reg => ⟨.ADD_reg, 0x8004#16, 0xF00F#16, 0, .XY⟩
  | .SUB => ⟨.SUB, 0x8005#16, 0xF00F#16, 0, .XY⟩
  | .SHR => ⟨.SHR, 0x8006#16, 0xF00F#16, 0, .XY⟩
  | .SUBN => ⟨.SUBN, 0x8007#16, 0xF00F#16, 0, .XY⟩
  | .SHL => ⟨.SHL, 0x800E#16, 0xF00F#16, 0, .XY⟩
  | .UNK_8 => ⟨.UNK_8, 0x8000#16, 0xF000#16, 1, .XY⟩
  | .SNE_reg => ⟨.SNE_reg, 0x9000#16, 0xF000#16, 0, .XY⟩
  | .LD_I => ⟨.LD_I, 0xA000#16, 0xF000#16, 0, .NNN⟩
  | .JP_V0 => ⟨.JP_V0, 0xB000#16, 0xF000#16, 0, .NNN⟩
  | .RND => ⟨.RND, 0xC000#16, 0xF000#16, 0, .XKK⟩
  | .DRW => ⟨.DRW, 0xD000#16, 0xF000#16, 0, .XYN⟩
  | .SKP => ⟨.SKP, 0xE09E#16, 0xF0FF#16, 0, .XSEL⟩
  | .SKNP => ⟨.SKNP, 0xE0A1#16, 0xF0FF#16, 0, .XSEL⟩
  | .UNK_E => ⟨.UNK_E, 0xE000#16, 0xF000#16, 1, .KKRAW⟩
  | .LD_Vx_DT => ⟨.LD_Vx_DT, 0xF007#16, 0xF0FF#16, 0, .XSEL⟩
  | .LD_Vx_K => ⟨.LD_Vx_K, 0xF00A#16, 0xF0FF#16, 0, .XSEL⟩
  | .LD_DT_Vx => ⟨.LD_DT_Vx, 0xF015#16, 0xF0FF#16, 0, .XSEL⟩
  | .LD_ST_Vx => ⟨.LD_ST_Vx, 0xF018#16, 0xF0FF#16, 0, .XSEL⟩
  | .ADD_I_Vx => ⟨.ADD_I_Vx, 0xF01E#16, 0xF0FF#16, 0, .XSEL⟩
  | .LD_F_Vx => ⟨.LD_F_Vx, 0xF029#16, 0xF0FF#16, 0, .XSEL⟩
  | .LD_B_Vx => ⟨.LD_B_Vx, 0xF033#16, 0xF0FF#16, 0, .XSEL⟩
  | .LD_mI_Vx => ⟨.LD_mI_Vx, 0xF055#16, 0xF0FF#16, 0, .XSEL⟩
  | .LD_Vx_mI => ⟨.LD_Vx_mI, 0xF065#16, 0xF0FF#16, 0, .XSEL⟩
  | .UNK_F => ⟨.UNK_F, 0xF000#16, 0xF000#16, 1, .KKRAW⟩

/-- The entries in the order of R66 (R67): `entries[k]` is row `k`. -/
def entries : List Entry :=
  [.SYS, .CLS, .RET, .JP_addr, .CALL, .SE_byte, .SNE_byte, .SE_reg, .LD_byte, .ADD_byte]
  ++ [.LD_reg, .OR, .AND, .XOR, .ADD_reg, .SUB, .SHR, .SUBN, .SHL, .UNK_8]
  ++ [.SNE_reg, .LD_I, .JP_V0, .RND, .DRW, .SKP, .SKNP, .UNK_E]
  ++ [.LD_Vx_DT, .LD_Vx_K, .LD_DT_Vx, .LD_ST_Vx, .ADD_I_Vx, .LD_F_Vx, .LD_B_Vx, .LD_mI_Vx, .LD_Vx_mI, .UNK_F]

/-- A word matches a row (R66). -/
def OpcodeRow.matchesWord (r : OpcodeRow) (w : Word) : Bool := w &&& r.mask == r.code

/-- The rows of priority `p` that a word matches. -/
def rowsMatching (p : Nat) (w : Word) : List Entry :=
  entries.filter fun e => e.row.priority == p && e.row.matchesWord w

/-- The decoder R76 writes from the table alone: the priority-0 row that matches, else the priority-1 row. -/
def selectRow (w : Word) : Option Entry :=
  match rowsMatching 0 w with
  | e :: _ => some e
  | [] => (rowsMatching 1 w).head?

/-! ### The host's reading of one table word -/

/-- The instruction the decoder reads from a word numbered as spec/opcode_table.json numbers it: the 16 bits laid out
big-endian, as the block fetches them (R42, R60). -/
def decodeTableWord (nbits w : Nat) : Option Instr :=
  let word : Word := BitVec.ofNat Config.wordBits (w % 2 ^ nbits)
  match decodeBytes [highByte word, lowByte word] with
  | .ok i => some i
  | .error _ => none

end Sys2Proof
end

