-- ==== Sys2Proof/Machine/TextTable.lean ====
section
/-! DEFINITION. The parameter `TEXT_TABLE` at its default, the table of spec/47_line_format.md R199 (D28): for each entry
the mnemonic token and the operand list.  Five rows are the document's (`source`), thirty-three are the spec's decisions
D10, D11, D16 (`decision`). -/

namespace Sys2Proof.Machine

/-- The operand columns that repeat in R199. -/
def xKK : List OperandTemplate := [.regB, .byteKK]

/-- The register pair of family 8 and of `a` = 5, 9 (R124, R127, spec/44_family_8.md). -/
def xY : List OperandTemplate := [.regB, .regC]

/-- `TEXT_TABLE` (R199). -/
def textTable : Entry → TextRow
  | .SYS => ⟨['S', 'Y', 'S'], [.addrNNN], .decision⟩
  | .CLS => ⟨['C', 'L', 'S'], [], .source⟩
  | .RET => ⟨['R', 'E', 'T'], [], .decision⟩
  | .JP_addr => ⟨['J', 'P'], [.addrNNN], .source⟩
  | .CALL => ⟨['C', 'A', 'L', 'L'], [.addrNNN], .decision⟩
  | .SE_byte => ⟨['S', 'E'], xKK, .decision⟩
  | .SNE_byte => ⟨['S', 'N', 'E'], xKK, .decision⟩
  | .SE_reg => ⟨['S', 'E'], xY, .decision⟩
  | .LD_byte => ⟨['L', 'D'], xKK, .source⟩
  | .ADD_byte => ⟨['A', 'D', 'D'], xKK, .decision⟩
  | .LD_reg => ⟨['L', 'D'], xY, .decision⟩
  | .OR => ⟨['O', 'R'], xY, .decision⟩
  | .AND => ⟨['A', 'N', 'D'], xY, .decision⟩
  | .XOR => ⟨['X', 'O', 'R'], xY, .decision⟩
  | .ADD_reg => ⟨['A', 'D', 'D'], xY, .decision⟩
  | .SUB => ⟨['S', 'U', 'B'], xY, .decision⟩
  | .SHR => ⟨['S', 'H', 'R'], xY, .decision⟩
  | .SUBN => ⟨['S', 'U', 'B', 'N'], xY, .decision⟩
  | .SHL => ⟨['S', 'H', 'L'], xY, .decision⟩
  | .UNK_8 => ⟨['?', '?', '?'], xY, .source⟩
  | .SNE_reg => ⟨['S', 'N', 'E'], xY, .decision⟩
  | .LD_I => ⟨['L', 'D'], [.lit ['I'], .addrNNN], .decision⟩
  | .JP_V0 => ⟨['J', 'P'], [.lit ['V', '0'], .addrNNN], .decision⟩
  | .RND => ⟨['R', 'N', 'D'], xKK, .decision⟩
  | .DRW => ⟨['D', 'R', 'W'], [.regB, .regC, .nibD], .source⟩
  | .SKP => ⟨['S', 'K', 'P'], [.regB], .decision⟩
  | .SKNP => ⟨['S', 'K', 'N', 'P'], [.regB], .decision⟩
  | .UNK_E => ⟨['?', '?', '?'], [.byteKK], .decision⟩
  | .LD_Vx_DT => ⟨['L', 'D'], [.regB, .lit ['D', 'T']], .decision⟩
  | .LD_Vx_K => ⟨['L', 'D'], [.regB, .lit ['K']], .decision⟩
  | .LD_DT_Vx => ⟨['L', 'D'], [.lit ['D', 'T'], .regB], .decision⟩
  | .LD_ST_Vx => ⟨['L', 'D'], [.lit ['S', 'T'], .regB], .decision⟩
  | .ADD_I_Vx => ⟨['A', 'D', 'D'], [.lit ['I'], .regB], .decision⟩
  | .LD_F_Vx => ⟨['L', 'D'], [.lit ['F'], .regB], .decision⟩
  | .LD_B_Vx => ⟨['L', 'D'], [.lit ['B'], .regB], .decision⟩
  | .LD_mI_Vx => ⟨['L', 'D'], [.lit ['[', 'I', ']'], .regB], .decision⟩
  | .LD_Vx_mI => ⟨['L', 'D'], [.regB, .lit ['[', 'I', ']']], .decision⟩
  | .UNK_F => ⟨['?', '?', '?'], [.byteKK], .decision⟩

end Sys2Proof.Machine
end

