-- ==== Sys2Proof/Machine/Operands.lean ====
section
/-! DEFINITION. Operand forms, numbers and the line formatter (spec/47_line_format.md), and the Instruction record
(spec/41_fetch_and_fields.md R104).  All pure functions of an address and a word. -/

namespace Sys2Proof.Machine

/-! ### Numbers (R192) -/

/-- The sixteen lowercase digits (R192, D17). -/
def lowerDigits : List Char :=
  ['0', '1', '2', '3', '4', '5', '6', '7', '8', '9', 'a', 'b', 'c', 'd', 'e', 'f']

/-- The sixteen uppercase digits (R192, D17). -/
def upperDigits : List Char :=
  ['0', '1', '2', '3', '4', '5', '6', '7', '8', '9', 'A', 'B', 'C', 'D', 'E', 'F']

/-- `v` as exactly `n` digits of the alphabet `ds`, most significant first: the `k`-th digit from the right is
`(v >> 4k) & 0xF` (R192). -/
def hexText (ds : List Char) (v : Nat) : Nat → Text
  | 0 => []
  | k + 1 => ds.getD ((v >>> (4 * k)) &&& 0xF) '0' :: hexText ds v k

/-- `hex_lc(v, n)` (R8, R192). -/
def hexLc (v n : Nat) : Text := hexText lowerDigits v n

/-- `hex_uc(v, n)` (R8, R192). -/
def hexUc (v n : Nat) : Text := hexText upperDigits v n

/-- `spaces(n)` (R8). -/
def spaces (n : Nat) : Text := List.replicate n ' '

/-! ### Operands (R195, R197) -/

/-- The text of one operand (R195). -/
def operandText : Operand → Text
  | .reg r => 'V' :: hexUc r.toNat 1
  | .byte k => ['0', 'x'] ++ hexLc k.toNat 2
  | .addr t => '@' :: hexLc t.toNat 3
  | .nib q => ['0', 'x'] ++ hexLc q.toNat 1
  | .lit token => token

/-- `OperandText(ops)`: the operand texts joined by exactly one space (R197). -/
def operandsText : List Operand → Text
  | [] => []
  | [o] => operandText o
  | o :: p :: rest => operandText o ++ ' ' :: operandsText (p :: rest)

/-- The operand a column of `TEXT_TABLE` builds from the extracted fields (R199). -/
def instantiate (f : Fields) : OperandTemplate → Operand
  | .regB => .reg f.b
  | .regC => .reg f.c
  | .byteKK => .byte f.kk
  | .addrNNN => .addr f.nnn
  | .nibD => .nib f.d
  | .lit token => .lit token

/-- `Operands(entry, b, c, d, kk, nnn)` (R100 step 3, R110 to R179). -/
def operands (e : Entry) (f : Fields) : List Operand := (textTable e).ops.map (instantiate f)

/-! ### The line (R190, R191) -/

/-- The mnemonic token, padded to its column only when operands follow (R191). -/
def mnemonicField (e : Entry) (ops : List Operand) : Text :=
  let m := (textTable e).mnemonic
  if ops = [] then m else m ++ spaces (Config.colMnemonicPad - m.length)

/-- The Instruction record of one decode (R104): everything in it comes from the address and the word. -/
def mkRecord (address : Nat) (opcode : Word) (e : Entry) : InstrRecord :=
  let f := fields opcode
  { address := address, opcode := opcode, fields := f, entry := e, ops := operands e f }

/-- The columns up to the mnemonic: the address and the raw word (R190, R193, R194). -/
def lineHead (address : Nat) (opcode : Word) : Text :=
  '@' :: hexLc address 3 ++ spaces 5 ++ ['0', 'x'] ++ hexLc opcode.toNat 4 ++ spaces 4

/-- The columns from the mnemonic on, without the line feed (R190, R191, R197). -/
def lineTail (e : Entry) (ops : List Operand) : Text := mnemonicField e ops ++ operandsText ops

/-- `FormatLine` (R190), the terminator being the single character 0x0A (R198). -/
def formatLine (r : InstrRecord) : Line := lineHead r.address r.opcode ++ lineTail r.entry r.ops ++ ['\n']

/-- The addresses that have a three-digit text, the domain of `DecodeWord` (R109, D22). -/
def addressPrintable (address : Nat) : Bool := address < Config.memSize

/-- The line of a word that belongs to entry `e`, refused where the address has no three-digit text. -/
def lineOf (address : Nat) (opcode : Word) (e : Entry) : Option Line :=
  if addressPrintable address then some (formatLine (mkRecord address opcode e)) else none

/-- `DecodeWord(address, opcode)` (R109): `none` where it is refused. -/
def decodeWord (address : Nat) (opcode : Word) : Option Line := lineOf address opcode (dispatch opcode)

/-! ### The driver's header (R202) -/

/-- The two header lines the DRIVER emits; no operation of the block produces them (R202, D19).  They fix the columns. -/
def headerLines : List Line :=
  [['A', 'D', 'D', 'R'] ++ spaces 5 ++ ['I', 'N', 'S', 'T', 'R'] ++ spaces 5 ++ ['N', 'A', 'M', 'E'] ++ spaces 4
      ++ ['A', 'R', 'G', 'S'] ++ ['\n'],
    List.replicate 4 '=' ++ spaces 5 ++ List.replicate 5 '=' ++ spaces 5 ++ List.replicate 4 '=' ++ spaces 4
      ++ List.replicate 4 '=' ++ ['\n']]

end Sys2Proof.Machine
end

