-- ==== Sys2Proof/Machine/Ops.lean ====
section
/-! DEFINITION. The operations shared by everything the block does: one byte of memory and runs of bytes
(spec/20_memory.md), the updates of the state, raising an error (spec/60_exceptions.md R215), the phase check of R221, and
the emission of one line (spec/41_fetch_and_fields.md R100 steps 4 and 5). -/

namespace Sys2Proof.Machine

/-- What a meaning or an operation answers. -/
abbrev Outcome := Host.Outcome State Fault Refusal

/-! ### Memory -/

/-- The listed part is in canonical form above `lo`: addresses rise strictly from `lo`, lie in the 4096 bytes of `memory`,
and no listed byte is 0x00. -/
def Memory.wfFrom (lo : Nat) : Memory → Bool
  | [] => true
  | (a, v) :: rest => decide (lo ≤ a) && decide (a < Config.memSize) && decide (v ≠ 0x00#8) && Memory.wfFrom (a + 1) rest

/-- The canonical form of `memory`: equal memories are equal lists. -/
def Memory.wf (m : Memory) : Bool := Memory.wfFrom 0 m

/-- The byte at an address; 0x00 where nothing is listed (R32, R33). -/
def Memory.get : Memory → Nat → Byte
  | [], _ => 0x00#8
  | (b, v) :: rest, a => if a = b then v else Memory.get rest a

/-- `memory[a] <- v` in canonical form: storing 0x00 removes the entry. -/
def Memory.set : Memory → Nat → Byte → Memory
  | [], a, v => if v = 0x00#8 then [] else [(a, v)]
  | (b, w) :: rest, a, v =>
    if a < b then (if v = 0x00#8 then (b, w) :: rest else (a, v) :: (b, w) :: rest)
    else if a = b then (if v = 0x00#8 then rest else (a, v) :: rest)
    else (b, w) :: Memory.set rest a v

/-- `MemWrite(base + j, 1, s[j])` for `j` = 0, 1, … in that order (R44). -/
def Memory.setBytes : Memory → Nat → List Byte → Memory
  | m, _, [] => m
  | m, a, v :: rest => Memory.setBytes (Memory.set m a v) (a + 1) rest

/-- The `n` bytes from `addr` up, lowest address first: defined only when all of them are in `memory` (R8, R47). -/
def memReadBytes (m : Memory) (addr n : Nat) : Option (List Byte) :=
  if addr + n ≤ Config.memSize then some ((List.range n).map fun j => Memory.get m (addr + j)) else none

/-- `MemRead(addr, 2)`, big-endian (R8, R42): `none` where it is refused (R47). -/
def memReadWord (m : Memory) (addr : Nat) : Option Word :=
  match memReadBytes m addr 2 with
  | some [hi, lo] => some (wordOfBytes hi lo)
  | _ => none

/-- The bytes of the word at the cursor (R102), none of them where the word is not wholly inside `memory` (R47). -/
def fetchBytes (m : Memory) (addr : Nat) : List Byte := (memReadBytes m addr Config.instrBytes).getD []

/-- `DecodeAt(memory, addr)` (R109): `none` where it is refused. -/
def decodeAt (m : Memory) (addr : Nat) : Option Line := (memReadWord m addr).bind (decodeWord addr)

/-! ### Updates of the state -/

/-- Where a request leaves the driver (R244): only the answer about the block's own `pc` decides whether it decodes or
terminates; after any other operation it has to ask. -/
def driverAfter (s : State) : Request → Driver
  | .isEnd cursor => if cursor = s.pc.toNat then (if isEnd s cursor then .ended else .decodes) else .asks
  | .init | .load _ | .decodeStep => .asks

/-- The driver's turn is taken: request `r` is about to be performed and `rest` still waits. -/
def State.turn (s : State) (r : Request) (rest : List Request) : State :=
  { s with requests := rest, driver := driverAfter s r }

/-- Nothing changes but the value returned to the driver. -/
def State.answer (s : State) (r : Reply) : State := { s with reply := r }

/-- `n` free values are used up. -/
def State.useFree (s : State) (n : Nat) : State := { s with freeCount := s.freeCount + n }

/-- `memory` is replaced. -/
def State.withMemory (s : State) (m : Memory) : State := { s with memory := m }

/-- A performed decode step has produced a line: it is returned and recorded, and the cursor advances by 2
(R100 step 5, R107 "unconditionally"). -/
def State.emitted (s : State) (l : Line) : State :=
  { s with pc := s.pc + BitVec.ofNat Config.pcBits Config.instrBytes, out := s.out ++ [l], reply := .line l }

/-- A `load` of `n` bytes has succeeded: the length, the phase and the return value (R92). -/
def State.loadedWith (s : State) (m : Memory) (n : Nat) : State :=
  { s with memory := m, loadedLength := BitVec.ofNat Config.lenBits n, phase := .loaded, reply := .success }

/-- Everything `initialize` sets, whatever the state before (R90); the driver's requests and place and the model's counter
of free values are not the block's and stay. -/
def State.initialized (s : State) : State :=
  { State.reset with requests := s.requests, driver := s.driver, freeCount := s.freeCount }

/-- `raise <Error>`: the block's phase becomes `FAILED` and the structured error is the value returned; nothing is saved
and nothing else changes (R215).  The message is a free value (R26, U10).  Only `initialize` leads out (R216). -/
def raiseError (k : ErrorKind) (s : State) : State :=
  { s with phase := .failed, reply := .error { kind := k, message := Config.freeMessage s.freeCount },
           freeCount := s.freeCount + 1 }

/-! ### Shared shapes of an operation -/

/-- `require phase admits op else refuse` (R221). -/
def requirePhase (op : OpName) (s : State) (k : Outcome) : Outcome :=
  if admits s.phase op then k else .refused (.notAdmitted op s.phase)

/-- Steps 3 to 5 of the decode algorithm for a word whose entry is known (R100): build the record, format the line,
advance the cursor.  Refused only where the address has no three-digit text (R109, D22). -/
def emit (e : Entry) (opcode : Word) (s : State) : Outcome :=
  match lineOf s.pc.toNat opcode e with
  | some l => .next (s.emitted l)
  | none => .refused (.addressOutOfRange s.pc.toNat)

end Sys2Proof.Machine
end

