-- ==== Sys2Proof/Machine/Family0.lean ====
section
/-! DEFINITION. Family 0 (spec/42_family_0.md): the entries `a` = 0x0 selects.
The meaning of an entry is the line it prints and the advance of the cursor; the block executes nothing
(spec/00_scope.md R5). -/

namespace Sys2Proof.Machine

/-- `CLS`, "clear screen" (R110): no operands, and nothing is cleared. -/
def execCls (s : State) : Outcome := emit .CLS (encode .cls) s

/-- `RET`, "return from subroutine" (R111): no operands; the block keeps no call stack and `pc` advances by 2. -/
def execRet (s : State) : Outcome := emit .RET (encode .ret) s

/-- `SYS`, "system call to address nnn" (R112): prints the address; no system call is made. -/
def execSys (nnn : Addr) (s : State) : Outcome := emit .SYS (encode (.sys nnn)) s

end Sys2Proof.Machine
end

