-- ==== Sys2Proof/Machine/Family8.lean ====
section
/-! DEFINITION. Family 8 (spec/44_family_8.md): every entry prints register `b`, then register `c`.
The meaning of an entry is the line it prints and the advance of the cursor; the block executes nothing
(spec/00_scope.md R5). -/

namespace Sys2Proof.Machine

/-- `LD_reg` (R140). -/
def execLdReg (b c : Nibble) (s : State) : Outcome := emit .LD_reg (encode (.ldReg b c)) s

/-- `OR` (R141). -/
def execOrReg (b c : Nibble) (s : State) : Outcome := emit .OR (encode (.orReg b c)) s

/-- `AND` (R142). -/
def execAndReg (b c : Nibble) (s : State) : Outcome := emit .AND (encode (.andReg b c)) s

/-- `XOR` (R143). -/
def execXorReg (b c : Nibble) (s : State) : Outcome := emit .XOR (encode (.xorReg b c)) s

/-- `ADD_reg` (R144). -/
def execAddReg (b c : Nibble) (s : State) : Outcome := emit .ADD_reg (encode (.addReg b c)) s

/-- `SUB` (R145). -/
def execSub (b c : Nibble) (s : State) : Outcome := emit .SUB (encode (.sub b c)) s

/-- `SHR` (R146): both registers are printed. -/
def execShr (b c : Nibble) (s : State) : Outcome := emit .SHR (encode (.shr b c)) s

/-- `SUBN` (R147). -/
def execSubn (b c : Nibble) (s : State) : Outcome := emit .SUBN (encode (.subn b c)) s

/-- `SHL` (R148). -/
def execShl (b c : Nibble) (s : State) : Outcome := emit .SHL (encode (.shl b c)) s

/-- `UNK_8` (R149): "an explicit 'unknown' record carrying both register operands", a normal output. -/
def execUnk8 (b c d : Nibble) (s : State) : Outcome := emit .UNK_8 (encode (.unk8 b c d)) s

end Sys2Proof.Machine
end

