-- ==== Sys2Proof/Machine/FamilyE.lean ====
section
/-! DEFINITION. Family E (spec/45_family_e.md): the key-skip entries; the block has no keypad.
The meaning of an entry is the line it prints and the advance of the cursor; the block executes nothing
(spec/00_scope.md R5). -/

namespace Sys2Proof.Machine

/-- `SKP`, "skip if key pressed" (R160): nothing is tested and nothing is skipped. -/
def execSkp (b : Nibble) (s : State) : Outcome := emit .SKP (encode (.skp b)) s

/-- `SKNP`, "skip if key not pressed" (R161). -/
def execSknp (b : Nibble) (s : State) : Outcome := emit .SKNP (encode (.sknp b)) s

/-- `UNK_E` (R162): the record carries the raw `kk` byte; `b` shows in the opcode column only. -/
def execUnkE (b : Nibble) (kk : Byte) (s : State) : Outcome := emit .UNK_E (encode (.unkE b kk)) s

end Sys2Proof.Machine
end

