-- ==== Sys2Proof/Machine/FamilyF.lean ====
section
/-! DEFINITION. Family F (spec/46_family_f.md): one register and one literal token each; no transfer is performed.
The meaning of an entry is the line it prints and the advance of the cursor; the block executes nothing
(spec/00_scope.md R5). -/

namespace Sys2Proof.Machine

/-- `LD_Vx_DT` (R170): no timer is read. -/
def execLdVxDT (b : Nibble) (s : State) : Outcome := emit .LD_Vx_DT (encode (.ldVxDT b)) s

/-- `LD_Vx_K`, "key-wait" (R171): the block does not wait. -/
def execLdVxK (b : Nibble) (s : State) : Outcome := emit .LD_Vx_K (encode (.ldVxK b)) s

/-- `LD_DT_Vx` (R172). -/
def execLdDTVx (b : Nibble) (s : State) : Outcome := emit .LD_DT_Vx (encode (.ldDTVx b)) s

/-- `LD_ST_Vx` (R173). -/
def execLdSTVx (b : Nibble) (s : State) : Outcome := emit .LD_ST_Vx (encode (.ldSTVx b)) s

/-- `ADD_I_Vx` (R174). -/
def execAddIVx (b : Nibble) (s : State) : Outcome := emit .ADD_I_Vx (encode (.addIVx b)) s

/-- `LD_F_Vx`, "sprite-address lookup" (R175). -/
def execLdFVx (b : Nibble) (s : State) : Outcome := emit .LD_F_Vx (encode (.ldFVx b)) s

/-- `LD_B_Vx`, "BCD conversion" (R176): no memory is written. -/
def execLdBVx (b : Nibble) (s : State) : Outcome := emit .LD_B_Vx (encode (.ldBVx b)) s

/-- `LD_mI_Vx`, block "store" (R177): the block's `memory` is not written. -/
def execLdMIVx (b : Nibble) (s : State) : Outcome := emit .LD_mI_Vx (encode (.ldMIVx b)) s

/-- `LD_Vx_mI`, block "load" (R178): only the fetch reads `memory`. -/
def execLdVxMI (b : Nibble) (s : State) : Outcome := emit .LD_Vx_mI (encode (.ldVxMI b)) s

/-- `UNK_F` (R179): the record carries the raw byte; `b` shows in the opcode column only. -/
def execUnkF (b : Nibble) (kk : Byte) (s : State) : Outcome := emit .UNK_F (encode (.unkF b kk)) s

end Sys2Proof.Machine
end

