-- ==== Sys2Proof/Machine/Primary.lean ====
section
/-! DEFINITION. The twelve single-entry primary nibbles (spec/43_primary_single.md).
The meaning of an entry is the line it prints and the advance of the cursor; the block executes nothing
(spec/00_scope.md R5). -/

namespace Sys2Proof.Machine

/-- `JP_addr` (R120): the target is printed, not followed. -/
def execJpAddr (nnn : Addr) (s : State) : Outcome := emit .JP_addr (encode (.jpAddr nnn)) s

/-- `CALL` (R121): nothing is pushed; the address is printed. -/
def execCall (nnn : Addr) (s : State) : Outcome := emit .CALL (encode (.call nnn)) s

/-- `SE_byte` (R122): nothing is compared and nothing is skipped. -/
def execSeByte (b : Nibble) (kk : Byte) (s : State) : Outcome := emit .SE_byte (encode (.seByte b kk)) s

/-- `SNE_byte` (R123): as `SE_byte`. -/
def execSneByte (b : Nibble) (kk : Byte) (s : State) : Outcome := emit .SNE_byte (encode (.sneByte b kk)) s

/-- `SE_reg` (R124): `d` is a don't-care that shows in the opcode column only (R69). -/
def execSeReg (b c d : Nibble) (s : State) : Outcome := emit .SE_reg (encode (.seReg b c d)) s

/-- `LD_byte` (R125). -/
def execLdByte (b : Nibble) (kk : Byte) (s : State) : Outcome := emit .LD_byte (encode (.ldByte b kk)) s

/-- `ADD_byte` (R126): nothing is added. -/
def execAddByte (b : Nibble) (kk : Byte) (s : State) : Outcome := emit .ADD_byte (encode (.addByte b kk)) s

/-- `SNE_reg` (R127): `d` is a don't-care as for `SE_reg`. -/
def execSneReg (b c d : Nibble) (s : State) : Outcome := emit .SNE_reg (encode (.sneReg b c d)) s

/-- `LD_I` (R128): the literal `I`, then the address. -/
def execLdI (nnn : Addr) (s : State) : Outcome := emit .LD_I (encode (.ldI nnn)) s

/-- `JP_V0` (R129): the literal `V0`, then the address; no sum is computed. -/
def execJpV0 (nnn : Addr) (s : State) : Outcome := emit .JP_V0 (encode (.jpV0 nnn)) s

/-- `RND` (R130): no random number is drawn. -/
def execRnd (b : Nibble) (kk : Byte) (s : State) : Outcome := emit .RND (encode (.rnd b kk)) s

/-- `DRW`, "the sprite-draw instruction" (R131): two registers and a nibble. -/
def execDrw (b c d : Nibble) (s : State) : Outcome := emit .DRW (encode (.drw b c d)) s

end Sys2Proof.Machine
end

