-- ==== Sys2Proof/Machine/Dispatch.lean ====
section
/-! DEFINITION. One arm per constructor of `Instr`, in the order of the opcode map (spec/30_encoding.md R66). -/

namespace Sys2Proof.Machine

/-- What a performed decode step does with the instruction the fetched word decodes to (R100 steps 3 to 5). -/
def exec (i : Instr) (s : State) : Host.Outcome State Fault Refusal :=
  match i with
  | .sys nnn => Sys2Proof.Machine.execSys nnn s
  | .cls => Sys2Proof.Machine.execCls s
  | .ret => Sys2Proof.Machine.execRet s
  | .jpAddr nnn => Sys2Proof.Machine.execJpAddr nnn s
  | .call nnn => Sys2Proof.Machine.execCall nnn s
  | .seByte b kk => Sys2Proof.Machine.execSeByte b kk s
  | .sneByte b kk => Sys2Proof.Machine.execSneByte b kk s
  | .seReg b c d => Sys2Proof.Machine.execSeReg b c d s
  | .ldByte b kk => Sys2Proof.Machine.execLdByte b kk s
  | .addByte b kk => Sys2Proof.Machine.execAddByte b kk s
  | .ldReg b c => Sys2Proof.Machine.execLdReg b c s
  | .orReg b c => Sys2Proof.Machine.execOrReg b c s
  | .andReg b c => Sys2Proof.Machine.execAndReg b c s
  | .xorReg b c => Sys2Proof.Machine.execXorReg b c s
  | .addReg b c => Sys2Proof.Machine.execAddReg b c s
  | .sub b c => Sys2Proof.Machine.execSub b c s
  | .shr b c => Sys2Proof.Machine.execShr b c s
  | .subn b c => Sys2Proof.Machine.execSubn b c s
  | .shl b c => Sys2Proof.Machine.execShl b c s
  | .unk8 b c d => Sys2Proof.Machine.execUnk8 b c d s
  | .sneReg b c d => Sys2Proof.Machine.execSneReg b c d s
  | .ldI nnn => Sys2Proof.Machine.execLdI nnn s
  | .jpV0 nnn => Sys2Proof.Machine.execJpV0 nnn s
  | .rnd b kk => Sys2Proof.Machine.execRnd b kk s
  | .drw b c d => Sys2Proof.Machine.execDrw b c d s
  | .skp b => Sys2Proof.Machine.execSkp b s
  | .sknp b => Sys2Proof.Machine.execSknp b s
  | .unkE b kk => Sys2Proof.Machine.execUnkE b kk s
  | .ldVxDT b => Sys2Proof.Machine.execLdVxDT b s
  | .ldVxK b => Sys2Proof.Machine.execLdVxK b s
  | .ldDTVx b => Sys2Proof.Machine.execLdDTVx b s
  | .ldSTVx b => Sys2Proof.Machine.execLdSTVx b s
  | .addIVx b => Sys2Proof.Machine.execAddIVx b s
  | .ldFVx b => Sys2Proof.Machine.execLdFVx b s
  | .ldBVx b => Sys2Proof.Machine.execLdBVx b s
  | .ldMIVx b => Sys2Proof.Machine.execLdMIVx b s
  | .ldVxMI b => Sys2Proof.Machine.execLdVxMI b s
  | .unkF b kk => Sys2Proof.Machine.execUnkF b kk s

end Sys2Proof.Machine
end

