-- ==== Sys2Proof/Machine/Operations.lean ====
section
/-! DEFINITION. The four operations of the block (spec/40_buffer_operations.md, spec/41_fetch_and_fields.md R100), the
performing of one request of the driver, and what the driver does when it has no request waiting
(spec/70_reset_and_hazards.md R244). -/

namespace Sys2Proof.Machine

/-- `initialize()` (R90): total, and the same from every state; the block's only reset (R240). -/
def bufferInit (s : State) : Outcome := .next s.initialized

/-- The bytes a short read leaves unspecified: `n` free values, one for each address from the load origin up (U2). -/
def freeBytes (s : State) (n : Nat) : List Byte := (List.range n).map fun j => Config.freeByte (s.freeCount + j)

/-- The state in which a short read of a source of length `n` raises its error: `memory[0x200 .. 0x200+n-1]` unspecified,
every other byte as before (R92, R212, U2). -/
def scrambled (n : Nat) (s : State) : State :=
  (s.withMemory (Memory.setBytes s.memory Config.loadOrigin (freeBytes s n))).useFree n

/-- A successful read of the whole source: copy, set the length, enter `LOADED` (R92).  An odd length is accepted under
`pad_zero`, the default (R248, D4). -/
def loadImage (bs : List Byte) (s : State) : Outcome :=
  match decide (bs.length % 2 = 1), Config.oddLengthPolicy with
  | false, _ | true, .padZero => .next (s.loadedWith (Memory.setBytes s.memory Config.loadOrigin bs) bs.length)
  | true, .refuseOdd => .refused (.oddLength .refuseOdd)
  | true, .errorOdd => .refused (.oddLength .errorOdd)

/-- What an admitted `load` does with its source (R92): the checks in the order open, length against capacity, read
(R214, D8). -/
def loadSource (s : State) : Source → Outcome
  | .openFail => .next (raiseError .io s)
  | .short got lack =>
    if Config.loadCapacity < got.length + lack + 1 then .next (raiseError .capacity s)
    else .next (raiseError .io (scrambled (got.length + lack + 1) s))
  | .bytes bs => if Config.loadCapacity < bs.length then .next (raiseError .capacity s) else loadImage bs s

/-- `load(src)` (R92), admitted in `EMPTY` only. -/
def load (src : Source) (s : State) : Outcome := requirePhase .load s (loadSource s src)

/-- `is_end(cursor)` as the driver asks it (R94): it answers a Boolean and writes nothing. -/
def askEnd (cursor : Nat) (s : State) : Outcome := requirePhase .isEnd s (.next (s.answer (.ended (isEnd s cursor))))

/-- The performed part of `decode_step` (R100 steps 1 to 5): fetch two bytes at the cursor, decode them, and do what the
instruction's meaning says. -/
def decodeAtCursor (s : State) : Outcome :=
  match decodeBytes (fetchBytes s.memory s.pc.toNat) with
  | .ok i => exec i s
  | .error .truncated => .refused (.addressOutOfRange s.pc.toNat)

/-- `decode_step()` (R100): it "performs no work if" the end predicate is true (R101, D5). -/
def decodeStep (s : State) : Outcome :=
  requirePhase .decodeStep s (if isEnd s s.pc.toNat then .next (s.answer .noLine) else decodeAtCursor s)

/-- One request of the driver, performed whole (R9: atomic, blocking). -/
def perform : Request → State → Outcome
  | .init, s => bufferInit s
  | .load src, s => load src s
  | .isEnd cursor, s => askEnd cursor s
  | .decodeStep, s => decodeStep s

/-- The move the driver of R244 makes when no request is waiting: `initialize` first, then its loop, asking `is_end(pc)` and
decoding only after the answer false.  It makes none once it has terminated, at the end or after an error. -/
def driverMove (s : State) : Option Request :=
  match s.phase, s.driver with
  | .uninit, _ => some .init
  | .empty, .asks | .loaded, .asks => some (.isEnd s.pc.toNat)
  | .empty, .decodes | .loaded, .decodes => some .decodeStep
  | .empty, .ended | .loaded, .ended => none
  | .failed, _ => none

/-- No request waits and the driver has terminated: in failure after an error (R222, R245), with status zero otherwise, and
then nothing moves any more (R244). -/
def runOver (s : State) : Outcome := if s.phase = .failed then .fault .runFailed else .next s

/-- One step of block and driver together: the oldest request, else the driver's own move, else the run is over. -/
def advance (s : State) : Outcome :=
  match s.requests with
  | r :: rest => perform r (s.turn r rest)
  | [] =>
    match driverMove s with
    | some r => perform r (s.turn r [])
    | none => runOver s

/-- The requests with which the driver of R244 starts a run on a source. -/
def driverScript (src : Source) : List Request := [.init, .load src]

/-- Where `withFetchWord` puts its word: the cursor, or the load origin when no word fits at the cursor. -/
def fetchPlace (s : State) : Nat :=
  if s.pc.toNat + Config.instrBytes ≤ Config.memSize then s.pc.toNat else Config.loadOrigin

/-- `s` with a word loaded where the very next step fetches: its bytes big-endian at the cursor (R42), the phase `LOADED`,
the loaded region reaching past the word, and `decode_step` as the driver's next request. -/
def placeWord (s : State) (w : Word) : State :=
  let p := fetchPlace s
  { s with
    memory := Memory.setBytes s.memory p [highByte w, lowByte w]
    pc := BitVec.ofNat Config.pcBits p
    loadedLength :=
      if p + Config.instrBytes ≤ loadedEnd s then s.loadedLength
      else BitVec.ofNat Config.lenBits (p + Config.instrBytes - Config.loadOrigin)
    phase := .loaded
    requests := .decodeStep :: s.requests }

end Sys2Proof.Machine
end

