-- ==== Sys2Proof/Machine/Step.lean ====
section
/-! DEFINITION. The step of the machine, and the host's way of placing one instruction word where it is fetched next. -/

namespace Sys2Proof.Machine

/-- One step: one operation of the block, chosen by the driver (spec/00_scope.md R9). -/
def step (s : State) : Host.Outcome State Fault Refusal := advance s

/-- `s` with the instruction word whose bits are `w` stored where `step` fetches its next instruction; bit 0 of `w` is the
least significant bit of the word, and every bit above `nbits` is 0. -/
def State.withFetchWord (s : State) (nbits w : Nat) : State := placeWord s (BitVec.ofNat Config.wordBits (w % 2 ^ nbits))

end Sys2Proof.Machine
end

