-- ==== Sys2Proof/Machine/Grammar.lean ====
section
/-! DEFINITION. The grammar of an instruction line (spec/47_line_format.md R203), "for a reader who wants to parse `out`".
No operation of the block uses it: claims about the formatter are stated with it. -/

namespace Sys2Proof.Machine

/-- `hex3`, `hex4` and the digits of an immediate: a run of `n` lowercase digits. -/
def IsHexRun (n : Nat) (t : Text) : Prop := t.length = n ∧ ∀ c ∈ t, c ∈ lowerDigits

/-- The 21 mnemonic tokens (R199). -/
def mnemonicTokens : List Text :=
  [['S', 'Y', 'S'], ['C', 'L', 'S'], ['R', 'E', 'T'], ['J', 'P'], ['C', 'A', 'L', 'L'], ['S', 'E'], ['S', 'N', 'E']]
  ++ [['L', 'D'], ['A', 'D', 'D'], ['O', 'R'], ['A', 'N', 'D'], ['X', 'O', 'R'], ['S', 'U', 'B'], ['S', 'H', 'R']]
  ++ [['S', 'U', 'B', 'N'], ['S', 'H', 'L'], ['R', 'N', 'D'], ['D', 'R', 'W'], ['S', 'K', 'P'], ['S', 'K', 'N', 'P']]
  ++ [['?', '?', '?']]

/-- The literal operands of the grammar; `V0` has the spelling of a register. -/
def literalTokens : List Text := [['I'], ['D', 'T'], ['S', 'T'], ['K'], ['F'], ['B'], ['[', 'I', ']']]

/-- `operand` (R203). -/
def IsOperandText (t : Text) : Prop :=
  (∃ u ∈ upperDigits, t = ['V', u])
  ∨ (∃ h, (IsHexRun 2 h ∨ IsHexRun 1 h) ∧ t = '0' :: 'x' :: h)
  ∨ (∃ h, IsHexRun 3 h ∧ t = '@' :: h)
  ∨ t ∈ literalTokens

/-- `operands`: one, two or three, one space between (R203). -/
def IsOperandsText (t : Text) : Prop :=
  ∃ os : List Text, 1 ≤ os.length ∧ os.length ≤ 3 ∧ (∀ o ∈ os, IsOperandText o) ∧ t = List.intercalate [' '] os

/-- `line` (R203). -/
def IsLine (l : Line) : Prop :=
  ∃ address word mnemonic rest : Text,
    IsHexRun 3 address ∧ IsHexRun 4 word ∧ mnemonic ∈ mnemonicTokens
    ∧ (rest = [] ∨ ∃ ops, IsOperandsText ops ∧ rest = spaces (8 - mnemonic.length) ++ ops)
    ∧ l = '@' :: address ++ spaces 5 ++ ['0', 'x'] ++ word ++ spaces 4 ++ mnemonic ++ rest ++ ['\n']

end Sys2Proof.Machine
end

