-- ==== Sys2Proof/Safety.lean ====
section
/-! DEFINITION. What counts as a good state, a driver that keeps the protocol, and the end of a run, in the terms the
statements use (spec/10_state.md R22, R25; spec/70_reset_and_hazards.md R244, R245). -/

namespace Sys2Proof.Machine

/-! ### Good states -/

/-- What holds in every state after the first `initialize`. -/
structure Consistent (s : State) : Prop where
  /-- The memory is in canonical form, inside the 4096 bytes. -/
  memoryWf : s.memory.wf = true
  /-- "`loaded_length <= 0xE00`" (R24). -/
  lengthBound : s.loadedLength.toNat ≤ 0xE00
  /-- `pc = 0x200 + 2*k` where `k` is the number of decode steps performed since `initialize` (R22). -/
  cursor : s.pc.toNat = 0x200 + 2 * s.out.length
  /-- `pc <= 0x200 + loaded_length + 1` (R22). -/
  cursorBound : s.pc.toNat ≤ 0x200 + s.loadedLength.toNat + 1
  /-- Nothing is loaded in `EMPTY`, nor after a failed `load` (R24, R25). -/
  unloaded : s.phase = .empty ∨ s.phase = .failed → s.loadedLength = 0
  /-- The bytes below the load origin are 0x00 for ever (R32, R41). -/
  lowZero : ∀ a, a < 0x200 → Memory.get s.memory a = 0
  /-- The bytes past the loaded region are 0x00 (R32, R41); not after a short read (R212). -/
  tailZero : s.phase ≠ .failed → ∀ a, 0x200 + s.loadedLength.toNat ≤ a → Memory.get s.memory a = 0
  /-- The trace is the decoding of the image: line `k` is `DecodeAt(memory, 0x200 + 2k)` (R27, R109). -/
  lines : ∀ k, k < s.out.length → s.out[k]? = decodeAt s.memory (0x200 + 2 * k)
  /-- The driver decodes only where `is_end(pc)` is false (R244). -/
  decodes : s.driver = .decodes → isEnd s s.pc.toNat = false
  /-- The driver has terminated only where `is_end(pc)` is true (R244, R245). -/
  ended : s.driver = .ended → isEnd s s.pc.toNat = true

/-- The invariant of the block: before the first `initialize` nothing is known (R25, R33), after it the state is
consistent. -/
def Inv (s : State) : Prop := s.phase ≠ .uninit → Consistent s

/-! ### The driver's protocol -/

/-- A source that `load` accepts (R92). -/
def Source.accepted : Source → Bool
  | .openFail | .short _ _ => false
  | .bytes bs => bs.length ≤ 0xE00

/-- What the driver's duties depend on: the phase, the cursor, the loaded length, and whether the latest operation was
`is_end` of that cursor, answered false. -/
structure Position where
  phase : Phase
  cursor : Nat
  length : Nat
  askedFalse : Bool
  deriving DecidableEq, Repr

/-- The position of a state. -/
def State.position (s : State) : Position where
  phase := s.phase
  cursor := s.pc.toNat
  length := s.loadedLength.toNat
  askedFalse := s.driver == .decodes

/-- The position a performed request leaves (R25, R90, R92, R94, R107). -/
def Position.after (p : Position) : Request → Position
  | .init => ⟨.empty, 0x200, 0, false⟩
  | .load (.bytes bs) => if bs.length ≤ 0xE00 then ⟨.loaded, p.cursor, bs.length, false⟩ else ⟨.failed, p.cursor, p.length, false⟩
  | .load .openFail | .load (.short _ _) => ⟨.failed, p.cursor, p.length, false⟩
  | .isEnd cursor => { p with askedFalse := decide (cursor = p.cursor ∧ cursor < 0x200 + p.length) }
  | .decodeStep => { p with cursor := if p.cursor < 0x200 + p.length then p.cursor + 2 else p.cursor, askedFalse := false }

/-- The duty on one request: the phase admits it (R221, R247), and a `decode_step` comes right after the answer false to
`is_end(pc)` (R244). -/
def Position.permits (p : Position) (r : Request) : Bool := admits p.phase r.op && (r != .decodeStep || p.askedFalse)

/-- A driver that asks for these requests, in this order, keeps the protocol of R244. -/
def keepsProtocol : Position → List Request → Bool
  | _, [] => true
  | p, r :: rest => p.permits r && keepsProtocol (p.after r) rest

/-! ### The end of a run -/

/-- "A run has ended successfully when the phase is `LOADED` or `EMPTY` and `is_end(pc)` is true" (R245). -/
def EndedSuccessfully (s : State) : Prop := (s.phase = .loaded ∨ s.phase = .empty) ∧ isEnd s s.pc.toNat = true

/-- "A run has ended in failure when the phase is `FAILED`" (R245). -/
def EndedInFailure (s : State) : Prop := s.phase = .failed

/-- The step about to be taken is a `decode_step`: the driver has asked for it, or it is the driver's own move after the
answer false to `is_end(pc)` (R244). -/
def DecodesNext (s : State) (rest : List Request) : Prop :=
  (s.phase = .empty ∨ s.phase = .loaded)
    ∧ (s.requests = .decodeStep :: rest ∨ (s.requests = [] ∧ rest = [] ∧ s.driver = .decodes))

/-! ### The line an entry prints -/

/-- A whole line from its columns: the address, the raw word, the text from the mnemonic on (R190). -/
def lineText (address : Nat) (word : Word) (tail : Text) : Line :=
  ['@'] ++ hexLc address 3 ++ [' ', ' ', ' ', ' ', ' ', '0', 'x'] ++ hexLc word.toNat 4 ++ [' ', ' ', ' ', ' '] ++ tail
    ++ ['\n']

/-- The instruction `i`, whose word is `w`, completes in every state whose cursor is an address of `memory`: it returns
and records the line with this tail, advances the cursor by 2 (R100, R107), and changes nothing else. -/
def Prints (i : Instr) (w : Word) (tail : Text) : Prop :=
  ∀ s : State, s.pc.toNat ≤ 0xFFF →
    exec i s = .next { s with
      pc := s.pc + 2#16
      out := s.out ++ [lineText s.pc.toNat w tail]
      reply := .line (lineText s.pc.toNat w tail) }

end Sys2Proof.Machine
end

