-- ==== Sys2Proof/Certificates/Slice0/Obligations.lean ====
section
/-! DEFINITION. The statements about this model for the provers.  Those of basis 'stated' formalise a numbered rule of
spec/ whole; the others say in their docstring what they rest on.  The text of a `decision` row of `TEXT_TABLE` is the
spec's own choice (D10, D11, D16), never the document's: a statement that quotes one is 'derived'. -/

open Sys2Proof Sys2Proof.Machine

/-- No bit of an encoding is dropped: the dispatch of R65 undoes the patterns of R66, for all 38 entries at once. -/
def Obligations.DecodeOfEncodeIsTheInstruction : Prop :=
  ∀ i : Instr, i.wf = true →
    decode (encode i) = i ∧ ∀ rest : List Byte, decodeBytes (encodeBytes i ++ rest) = .ok i

/-- The table partitions the word space (R75, derived there): each word has exactly one meaning. -/
def Obligations.EncodeOfDecodeIsTheWord : Prop :=
  ∀ w : Word, (decode w).wf = true ∧ encode (decode w) = w

/-- Two designs of the decoder, the function of R65 and the table search of R76, agree on the whole word space; no two rows
of one priority match the same word (R66). -/
def Obligations.DispatchAgreesWithOpcodeMap : Prop :=
  ∀ w : Word, selectRow w = some (dispatch w) ∧ (rowsMatching 0 w).length ≤ 1 ∧ (rowsMatching 1 w).length ≤ 1

/-- R65, its function clause by clause, with the fields as plain numbers. -/
def Obligations.DispatchFollowsItsTwoLevels : Prop :=
  ∀ w : Word,
    let a := w.toNat / 0x1000
    let d := w.toNat % 0x10
    let kk := w.toNat % 0x100
    let nnn := w.toNat % 0x1000
    let e := dispatch w
    (a = 0x1 → e = .JP_addr)
    ∧ (a = 0x2 → e = .CALL)
    ∧ (a = 0x3 → e = .SE_byte)
    ∧ (a = 0x4 → e = .SNE_byte)
    ∧ (a = 0x5 → e = .SE_reg)
    ∧ (a = 0x6 → e = .LD_byte)
    ∧ (a = 0x7 → e = .ADD_byte)
    ∧ (a = 0x9 → e = .SNE_reg)
    ∧ (a = 0xA → e = .LD_I)
    ∧ (a = 0xB → e = .JP_V0)
    ∧ (a = 0xC → e = .RND)
    ∧ (a = 0xD → e = .DRW)
    ∧ (a = 0x0 → nnn = 0x0E0 → e = .CLS)
    ∧ (a = 0x0 → nnn = 0x0EE → e = .RET)
    ∧ (a = 0x0 → nnn ≠ 0x0E0 → nnn ≠ 0x0EE → e = .SYS)
    ∧ (a = 0x8 → d = 0x0 → e = .LD_reg)
    ∧ (a = 0x8 → d = 0x1 → e = .OR)
    ∧ (a = 0x8 → d = 0x2 → e = .AND)
    ∧ (a = 0x8 → d = 0x3 → e = .XOR)
    ∧ (a = 0x8 → d = 0x4 → e = .ADD_reg)
    ∧ (a = 0x8 → d = 0x5 → e = .SUB)
    ∧ (a = 0x8 → d = 0x6 → e = .SHR)
    ∧ (a = 0x8 → d = 0x7 → e = .SUBN)
    ∧ (a = 0x8 → d = 0xE → e = .SHL)
    ∧ (a = 0x8 → d ∉ [0x0, 0x1, 0x2, 0x3, 0x4, 0x5, 0x6, 0x7, 0xE] → e = .UNK_8)
    ∧ (a = 0xE → kk = 0x9E → e = .SKP)
    ∧ (a = 0xE → kk = 0xA1 → e = .SKNP)
    ∧ (a = 0xE → kk ≠ 0x9E → kk ≠ 0xA1 → e = .UNK_E)
    ∧ (a = 0xF → kk = 0x07 → e = .LD_Vx_DT)
    ∧ (a = 0xF → kk = 0x0A → e = .LD_Vx_K)
    ∧ (a = 0xF → kk = 0x15 → e = .LD_DT_Vx)
    ∧ (a = 0xF → kk = 0x18 → e = .LD_ST_Vx)
    ∧ (a = 0xF → kk = 0x1E → e = .ADD_I_Vx)
    ∧ (a = 0xF → kk = 0x29 → e = .LD_F_Vx)
    ∧ (a = 0xF → kk = 0x33 → e = .LD_B_Vx)
    ∧ (a = 0xF → kk = 0x55 → e = .LD_mI_Vx)
    ∧ (a = 0xF → kk = 0x65 → e = .LD_Vx_mI)
    ∧ (a = 0xF → kk ∉ [0x07, 0x0A, 0x15, 0x18, 0x1E, 0x29, 0x33, 0x55, 0x65] → e = .UNK_F)

/-- A sanity check against the words of spec/95_test_vectors.md. -/
def Obligations.WordsWrittenOutDecodeAsTheSpecSays : Prop :=
  decode 0x00E0#16 = .cls ∧ decode 0x0123#16 = .sys 0x123#12
    ∧ decode 0x1ABC#16 = .jpAddr 0xABC#12 ∧ decode 0x6A3B#16 = .ldByte 0xA#4 0x3B#8
    ∧ decode 0x5ABF#16 = .seReg 0xA#4 0xB#4 0xF#4 ∧ decode 0xD12F#16 = .drw 0x1#4 0x2#4 0xF#4
    ∧ decode 0x8AB6#16 = .shr 0xA#4 0xB#4 ∧ decode 0x8AB8#16 = .unk8 0xA#4 0xB#4 0x8#4
    ∧ decode 0xE19E#16 = .skp 0x1#4 ∧ decode 0xE1FF#16 = .unkE 0x1#4 0xFF#8
    ∧ decode 0xF155#16 = .ldMIVx 0x1#4 ∧ decode 0xF090#16 = .unkF 0x0#4 0x90#8

/-- R60. -/
def Obligations.EveryInstructionIsTwoBytesLong : Prop :=
  (∀ (hi lo : Byte) (rest : List Byte), decodeBytes (hi :: lo :: rest) = .ok (decode (BitVec.ofNat 16 (hi.toNat * 256 + lo.toNat))))
  ∧ ∀ (w : Word) (s : State), s.pc.toNat ≤ 0xFFF → ∃ t, exec (decode w) s = .next t ∧ t.pc.toNat = s.pc.toNat + 2

/-- R103 on natural numbers, every identity it names. -/
def Obligations.FieldExtractorIdentities : Prop :=
  (∀ w : Word,
    let f := fields w
    let n := w.toNat
    f.a.toNat = (n >>> 12) &&& 0xF ∧ f.b.toNat = (n >>> 8) &&& 0xF ∧ f.c.toNat = (n >>> 4) &&& 0xF ∧ f.d.toNat = n &&& 0xF
    ∧ f.kk.toNat = (f.c.toNat <<< 4) ||| f.d.toNat ∧ f.kk.toNat = n &&& 0x00FF
    ∧ f.nnn.toNat = (f.b.toNat <<< 8) ||| f.kk.toNat ∧ f.nnn.toNat = n &&& 0x0FFF
    ∧ n = (f.a.toNat <<< 12) ||| (f.b.toNat <<< 8) ||| (f.c.toNat <<< 4) ||| f.d.toNat
    ∧ n = (f.a.toNat <<< 12) ||| f.nnn.toNat
    ∧ f.a.toNat ≤ 15 ∧ f.b.toNat ≤ 15 ∧ f.c.toNat ≤ 15 ∧ f.d.toNat ≤ 15 ∧ f.kk.toNat ≤ 255 ∧ f.nnn.toNat ≤ 4095)
  ∧ fields 0x8AB8#16 = { a := 0x8#4, b := 0xA#4, c := 0xB#4, d := 0x8#4, kk := 0xB8#8, nnn := 0xAB8#12 }

/-- R69 (a) and (b). -/
def Obligations.IgnoredNibblesDoNotReachTheText : Prop :=
  ∀ address : Nat, address ≤ 0xFFF → ∀ w w' : Word, ∀ l l' : Line,
    ((∃ (a b c d d' : Nibble), (a = 0x5#4 ∨ a = 0x9#4) ∧ w = a ++ (b ++ (c ++ d)) ∧ w' = a ++ (b ++ (c ++ d')))
      ∨ (∃ (b b' : Nibble) (kk : Byte), w = 0xE#4 ++ (b ++ kk) ∧ w' = 0xE#4 ++ (b' ++ kk) ∧ dispatch w = .UNK_E)
      ∨ (∃ (b b' : Nibble) (kk : Byte), w = 0xF#4 ++ (b ++ kk) ∧ w' = 0xF#4 ++ (b' ++ kk) ∧ dispatch w = .UNK_F)) →
    decodeWord address w = some l → decodeWord address w' = some l' →
    dispatch w = dispatch w' ∧ l.drop 19 = l'.drop 19

/-- R110; the mnemonic and the whole line are the document's. -/
def Obligations.ClearScreenIsOneWord : Prop :=
  (∀ w : Word, dispatch w = .CLS ↔ w = 0x00E0#16) ∧ decode 0x00E0#16 = .cls ∧ Prints .cls (0x00E0#16) (['C', 'L', 'S'])
  ∧ (∀ nnn : Addr, nnn ≠ 0x0E0#12 → nnn ≠ 0x0EE#12 → dispatch (0x0#4 ++ nnn) = .SYS)
  ∧ decodeWord 0x200 0x00E0#16 = some (['@', '2', '0', '0', ' ', ' ', ' ', ' ', ' '] ++ ['0', 'x', '0', '0', 'e', '0', ' ', ' ', ' ', ' '] ++ ['C', 'L', 'S'] ++ ['\n'])

/-- R111; the token is the spec's decision D10. -/
def Obligations.ReturnIsOneWord : Prop :=
  (∀ w : Word, dispatch w = .RET ↔ w = 0x00EE#16) ∧ decode 0x00EE#16 = .ret ∧ Prints .ret (0x00EE#16) (['R', 'E', 'T'])

/-- R112; token and operand form are decisions D10 and D11. -/
def Obligations.SystemCallPrintsItsAddress : Prop :=
  ∀ nnn : Addr, (nnn ≠ 0x0E0#12 → nnn ≠ 0x0EE#12 → decode (0x0#4 ++ nnn) = .sys nnn)
    ∧ Prints (.sys nnn) (0x0#4 ++ nnn) (['S', 'Y', 'S', ' ', ' ', ' ', ' ', ' ', '@'] ++ hexLc nnn.toNat 3)

/-- R72 and R113. -/
def Obligations.FamilyZeroHasNoUnknownRecord : Prop :=
  (∀ nnn : Addr, decode (0x0#4 ++ nnn) =
      if nnn = 0x0E0#12 then .cls else if nnn = 0x0EE#12 then .ret else .sys nnn)
  ∧ (∀ nnn : Addr, dispatch (0x0#4 ++ nnn) ∉ [Entry.UNK_8, Entry.UNK_E, Entry.UNK_F])
  ∧ decode 0x0000#16 = .sys 0x000#12
  ∧ (∀ n : Nibble, decode (0x0#4 ++ (0x0#4 ++ (0xC#4 ++ n))) = .sys (0x0#4 ++ (0xC#4 ++ n)))
  ∧ decode 0x00FB#16 = .sys 0x0FB#12 ∧ decode 0x00FC#16 = .sys 0x0FC#12 ∧ decode 0x00FD#16 = .sys 0x0FD#12
  ∧ decode 0x00FE#16 = .sys 0x0FE#12 ∧ decode 0x00FF#16 = .sys 0x0FF#12

/-- R120; mnemonic, operand form and line are the document's. -/
def Obligations.JumpIsPrintedNotFollowed : Prop :=
  (∀ nnn : Addr, decode (0x1#4 ++ nnn) = .jpAddr nnn
    ∧ Prints (.jpAddr nnn) (0x1#4 ++ nnn) (['J', 'P', ' ', ' ', ' ', ' ', ' ', ' ', '@'] ++ hexLc nnn.toNat 3))
  ∧ decodeWord 0x200 0x1ABC#16 = some (['@', '2', '0', '0', ' ', ' ', ' ', ' ', ' '] ++ ['0', 'x', '1', 'a', 'b', 'c', ' ', ' ', ' ', ' '] ++ ['J', 'P', ' ', ' ', ' ', ' ', ' ', ' ', '@', 'a', 'b', 'c'] ++ ['\n'])

/-- R121, R128, R129; all three identities and texts are decisions. -/
def Obligations.AddressEntriesPrintTheirAddress : Prop :=
  ∀ nnn : Addr,
    decode (0x2#4 ++ nnn) = .call nnn ∧ Prints (.call nnn) (0x2#4 ++ nnn) (['C', 'A', 'L', 'L', ' ', ' ', ' ', ' ', '@'] ++ hexLc nnn.toNat 3)
    ∧ decode (0xA#4 ++ nnn) = .ldI nnn ∧ Prints (.ldI nnn) (0xA#4 ++ nnn) (['L', 'D', ' ', ' ', ' ', ' ', ' ', ' ', 'I', ' ', '@'] ++ hexLc nnn.toNat 3)
    ∧ decode (0xB#4 ++ nnn) = .jpV0 nnn ∧ Prints (.jpV0 nnn) (0xB#4 ++ nnn) (['J', 'P', ' ', ' ', ' ', ' ', ' ', ' ', 'V', '0', ' ', '@'] ++ hexLc nnn.toNat 3)

/-- R125; mnemonic, operand form and line are the document's. -/
def Obligations.LoadByteIsPrinted : Prop :=
  (∀ (b : Nibble) (kk : Byte), decode (0x6#4 ++ (b ++ kk)) = .ldByte b kk
    ∧ Prints (.ldByte b kk) (0x6#4 ++ (b ++ kk)) (['L', 'D', ' ', ' ', ' ', ' ', ' ', ' ', 'V'] ++ hexUc b.toNat 1 ++ [' ', '0', 'x'] ++ hexLc kk.toNat 2))
  ∧ decodeWord 0x202 0x6A3B#16 = some (['@', '2', '0', '2', ' ', ' ', ' ', ' ', ' '] ++ ['0', 'x', '6', 'a', '3', 'b', ' ', ' ', ' ', ' '] ++ ['L', 'D', ' ', ' ', ' ', ' ', ' ', ' ', 'V', 'A', ' ', '0', 'x', '3', 'b'] ++ ['\n'])
  ∧ decodeWord 0x200 0x6005#16 = some (['@', '2', '0', '0', ' ', ' ', ' ', ' ', ' '] ++ ['0', 'x', '6', '0', '0', '5', ' ', ' ', ' ', ' '] ++ ['L', 'D', ' ', ' ', ' ', ' ', ' ', ' ', 'V', '0', ' ', '0', 'x', '0', '5'] ++ ['\n'])

/-- R122, R123, R126, R130; identities and texts are decisions. -/
def Obligations.RegisterByteEntriesPrintBoth : Prop :=
  ∀ (b : Nibble) (kk : Byte),
    decode (0x3#4 ++ (b ++ kk)) = .seByte b kk ∧ Prints (.seByte b kk) (0x3#4 ++ (b ++ kk)) (['S', 'E', ' ', ' ', ' ', ' ', ' ', ' ', 'V'] ++ hexUc b.toNat 1 ++ [' ', '0', 'x'] ++ hexLc kk.toNat 2)
    ∧ decode (0x4#4 ++ (b ++ kk)) = .sneByte b kk ∧ Prints (.sneByte b kk) (0x4#4 ++ (b ++ kk)) (['S', 'N', 'E', ' ', ' ', ' ', ' ', ' ', 'V'] ++ hexUc b.toNat 1 ++ [' ', '0', 'x'] ++ hexLc kk.toNat 2)
    ∧ decode (0x7#4 ++ (b ++ kk)) = .addByte b kk ∧ Prints (.addByte b kk) (0x7#4 ++ (b ++ kk)) (['A', 'D', 'D', ' ', ' ', ' ', ' ', ' ', 'V'] ++ hexUc b.toNat 1 ++ [' ', '0', 'x'] ++ hexLc kk.toNat 2)
    ∧ decode (0xC#4 ++ (b ++ kk)) = .rnd b kk ∧ Prints (.rnd b kk) (0xC#4 ++ (b ++ kk)) (['R', 'N', 'D', ' ', ' ', ' ', ' ', ' ', 'V'] ++ hexUc b.toNat 1 ++ [' ', '0', 'x'] ++ hexLc kk.toNat 2)

/-- R124, R127; identities and texts are decisions, the missing second level is the document's. -/
def Obligations.RegisterPairSkipsIgnoreTheLowNibble : Prop :=
  ∀ b c d : Nibble,
    decode (0x5#4 ++ (b ++ (c ++ d))) = .seReg b c d ∧ Prints (.seReg b c d) (0x5#4 ++ (b ++ (c ++ d))) (['S', 'E', ' ', ' ', ' ', ' ', ' ', ' ', 'V'] ++ hexUc b.toNat 1 ++ [' ', 'V'] ++ hexUc c.toNat 1)
    ∧ decode (0x9#4 ++ (b ++ (c ++ d))) = .sneReg b c d ∧ Prints (.sneReg b c d) (0x9#4 ++ (b ++ (c ++ d))) (['S', 'N', 'E', ' ', ' ', ' ', ' ', ' ', 'V'] ++ hexUc b.toNat 1 ++ [' ', 'V'] ++ hexUc c.toNat 1)

/-- R131; mnemonic and operand forms are the document's. -/
def Obligations.DrawSpriteIsPrinted : Prop :=
  (∀ b c d : Nibble, decode (0xD#4 ++ (b ++ (c ++ d))) = .drw b c d
    ∧ Prints (.drw b c d) (0xD#4 ++ (b ++ (c ++ d))) (['D', 'R', 'W', ' ', ' ', ' ', ' ', ' ', 'V'] ++ hexUc b.toNat 1 ++ [' ', 'V'] ++ hexUc c.toNat 1 ++ [' ', '0', 'x'] ++ hexLc d.toNat 1))
  ∧ ∃ t, step { State.reset with memory := [(0x200, 0xD1#8), (0x201, 0x2F#8)], loadedLength := 2#16, phase := .loaded, requests := [.decodeStep] } = .next t
    ∧ t.out = [['@', '2', '0', '0', ' ', ' ', ' ', ' ', ' '] ++ ['0', 'x', 'd', '1', '2', 'f', ' ', ' ', ' ', ' '] ++ ['D', 'R', 'W', ' ', ' ', ' ', ' ', ' ', 'V', '1', ' ', 'V', '2', ' ', '0', 'x', 'f'] ++ ['\n']]
    ∧ isEnd t t.pc.toNat = true

/-- R140 to R148; the pairing of selectors with operations and the texts are decisions. -/
def Obligations.FamilyEightEntriesPrintBothRegisters : Prop :=
  ∀ b c : Nibble,
    decode (0x8#4 ++ (b ++ (c ++ 0x0#4))) = .ldReg b c ∧ Prints (.ldReg b c) (0x8#4 ++ (b ++ (c ++ 0x0#4))) (['L', 'D', ' ', ' ', ' ', ' ', ' ', ' ', 'V'] ++ hexUc b.toNat 1 ++ [' ', 'V'] ++ hexUc c.toNat 1)
    ∧ decode (0x8#4 ++ (b ++ (c ++ 0x1#4))) = .orReg b c ∧ Prints (.orReg b c) (0x8#4 ++ (b ++ (c ++ 0x1#4))) (['O', 'R', ' ', ' ', ' ', ' ', ' ', ' ', 'V'] ++ hexUc b.toNat 1 ++ [' ', 'V'] ++ hexUc c.toNat 1)
    ∧ decode (0x8#4 ++ (b ++ (c ++ 0x2#4))) = .andReg b c ∧ Prints (.andReg b c) (0x8#4 ++ (b ++ (c ++ 0x2#4))) (['A', 'N', 'D', ' ', ' ', ' ', ' ', ' ', 'V'] ++ hexUc b.toNat 1 ++ [' ', 'V'] ++ hexUc c.toNat 1)
    ∧ decode (0x8#4 ++ (b ++ (c ++ 0x3#4))) = .xorReg b c ∧ Prints (.xorReg b c) (0x8#4 ++ (b ++ (c ++ 0x3#4))) (['X', 'O', 'R', ' ', ' ', ' ', ' ', ' ', 'V'] ++ hexUc b.toNat 1 ++ [' ', 'V'] ++ hexUc c.toNat 1)
    ∧ decode (0x8#4 ++ (b ++ (c ++ 0x4#4))) = .addReg b c ∧ Prints (.addReg b c) (0x8#4 ++ (b ++ (c ++ 0x4#4))) (['A', 'D', 'D', ' ', ' ', ' ', ' ', ' ', 'V'] ++ hexUc b.toNat 1 ++ [' ', 'V'] ++ hexUc c.toNat 1)
    ∧ decode (0x8#4 ++ (b ++ (c ++ 0x5#4))) = .sub b c ∧ Prints (.sub b c) (0x8#4 ++ (b ++ (c ++ 0x5#4))) (['S', 'U', 'B', ' ', ' ', ' ', ' ', ' ', 'V'] ++ hexUc b.toNat 1 ++ [' ', 'V'] ++ hexUc c.toNat 1)
    ∧ decode (0x8#4 ++ (b ++ (c ++ 0x6#4))) = .shr b c ∧ Prints (.shr b c) (0x8#4 ++ (b ++ (c ++ 0x6#4))) (['S', 'H', 'R', ' ', ' ', ' ', ' ', ' ', 'V'] ++ hexUc b.toNat 1 ++ [' ', 'V'] ++ hexUc c.toNat 1)
    ∧ decode (0x8#4 ++ (b ++ (c ++ 0x7#4))) = .subn b c ∧ Prints (.subn b c) (0x8#4 ++ (b ++ (c ++ 0x7#4))) (['S', 'U', 'B', 'N', ' ', ' ', ' ', ' ', 'V'] ++ hexUc b.toNat 1 ++ [' ', 'V'] ++ hexUc c.toNat 1)
    ∧ decode (0x8#4 ++ (b ++ (c ++ 0xE#4))) = .shl b c ∧ Prints (.shl b c) (0x8#4 ++ (b ++ (c ++ 0xE#4))) (['S', 'H', 'L', ' ', ' ', ' ', ' ', ' ', 'V'] ++ hexUc b.toNat 1 ++ [' ', 'V'] ++ hexUc c.toNat 1)

/-- R149; token and operands are the document's. -/
def Obligations.FamilyEightUnknownRecordIsNormalOutput : Prop :=
  (∀ b c d : Nibble, d ∈ [0x8#4, 0x9#4, 0xA#4, 0xB#4, 0xC#4, 0xD#4, 0xF#4] →
      decode (0x8#4 ++ (b ++ (c ++ d))) = .unk8 b c d)
  ∧ (∀ w : Word, dispatch w = .UNK_8 ↔
      (fields w).a = 0x8#4 ∧ (fields w).d ∈ [0x8#4, 0x9#4, 0xA#4, 0xB#4, 0xC#4, 0xD#4, 0xF#4])
  ∧ (∀ b c d : Nibble, Prints (.unk8 b c d) (0x8#4 ++ (b ++ (c ++ d))) (['?', '?', '?', ' ', ' ', ' ', ' ', ' ', 'V'] ++ hexUc b.toNat 1 ++ [' ', 'V'] ++ hexUc c.toNat 1))
  ∧ decodeWord 0x200 0x8AB8#16 = some (['@', '2', '0', '0', ' ', ' ', ' ', ' ', ' '] ++ ['0', 'x', '8', 'a', 'b', '8', ' ', ' ', ' ', ' '] ++ ['?', '?', '?', ' ', ' ', ' ', ' ', ' ', 'V', 'A', ' ', 'V', 'B'] ++ ['\n'])

/-- R160, R161; tokens and operands are decisions. -/
def Obligations.KeySkipsArePrintedOnly : Prop :=
  ∀ b : Nibble,
    decode (0xE#4 ++ (b ++ 0x9E#8)) = .skp b ∧ Prints (.skp b) (0xE#4 ++ (b ++ 0x9E#8)) (['S', 'K', 'P', ' ', ' ', ' ', ' ', ' ', 'V'] ++ hexUc b.toNat 1)
    ∧ decode (0xE#4 ++ (b ++ 0xA1#8)) = .sknp b ∧ Prints (.sknp b) (0xE#4 ++ (b ++ 0xA1#8)) (['S', 'K', 'N', 'P', ' ', ' ', ' ', ' ', 'V'] ++ hexUc b.toNat 1)

/-- R162; the token and the operand form are decision D16. -/
def Obligations.FamilyEUnknownRecordCarriesTheByte : Prop :=
  ∀ (b : Nibble) (kk : Byte), (kk ≠ 0x9E#8 → kk ≠ 0xA1#8 → decode (0xE#4 ++ (b ++ kk)) = .unkE b kk)
    ∧ Prints (.unkE b kk) (0xE#4 ++ (b ++ kk)) (['?', '?', '?', ' ', ' ', ' ', ' ', ' ', '0', 'x'] ++ hexLc kk.toNat 2)

/-- R170 to R178; the pairing of selectors with functions and the texts are decisions. -/
def Obligations.FamilyFEntriesPrintRegisterAndLiteral : Prop :=
  ∀ b : Nibble,
    decode (0xF#4 ++ (b ++ 0x07#8)) = .ldVxDT b ∧ Prints (.ldVxDT b) (0xF#4 ++ (b ++ 0x07#8)) (['L', 'D', ' ', ' ', ' ', ' ', ' ', ' ', 'V'] ++ hexUc b.toNat 1 ++ [' ', 'D', 'T'])
    ∧ decode (0xF#4 ++ (b ++ 0x0A#8)) = .ldVxK b ∧ Prints (.ldVxK b) (0xF#4 ++ (b ++ 0x0A#8)) (['L', 'D', ' ', ' ', ' ', ' ', ' ', ' ', 'V'] ++ hexUc b.toNat 1 ++ [' ', 'K'])
    ∧ decode (0xF#4 ++ (b ++ 0x15#8)) = .ldDTVx b ∧ Prints (.ldDTVx b) (0xF#4 ++ (b ++ 0x15#8)) (['L', 'D', ' ', ' ', ' ', ' ', ' ', ' ', 'D', 'T', ' ', 'V'] ++ hexUc b.toNat 1)
    ∧ decode (0xF#4 ++ (b ++ 0x18#8)) = .ldSTVx b ∧ Prints (.ldSTVx b) (0xF#4 ++ (b ++ 0x18#8)) (['L', 'D', ' ', ' ', ' ', ' ', ' ', ' ', 'S', 'T', ' ', 'V'] ++ hexUc b.toNat 1)
    ∧ decode (0xF#4 ++ (b ++ 0x1E#8)) = .addIVx b ∧ Prints (.addIVx b) (0xF#4 ++ (b ++ 0x1E#8)) (['A', 'D', 'D', ' ', ' ', ' ', ' ', ' ', 'I', ' ', 'V'] ++ hexUc b.toNat 1)
    ∧ decode (0xF#4 ++ (b ++ 0x29#8)) = .ldFVx b ∧ Prints (.ldFVx b) (0xF#4 ++ (b ++ 0x29#8)) (['L', 'D', ' ', ' ', ' ', ' ', ' ', ' ', 'F', ' ', 'V'] ++ hexUc b.toNat 1)
    ∧ decode (0xF#4 ++ (b ++ 0x33#8)) = .ldBVx b ∧ Prints (.ldBVx b) (0xF#4 ++ (b ++ 0x33#8)) (['L', 'D', ' ', ' ', ' ', ' ', ' ', ' ', 'B', ' ', 'V'] ++ hexUc b.toNat 1)
    ∧ decode (0xF#4 ++ (b ++ 0x55#8)) = .ldMIVx b ∧ Prints (.ldMIVx b) (0xF#4 ++ (b ++ 0x55#8)) (['L', 'D', ' ', ' ', ' ', ' ', ' ', ' ', '[', 'I', ']', ' ', 'V'] ++ hexUc b.toNat 1)
    ∧ decode (0xF#4 ++ (b ++ 0x65#8)) = .ldVxMI b ∧ Prints (.ldVxMI b) (0xF#4 ++ (b ++ 0x65#8)) (['L', 'D', ' ', ' ', ' ', ' ', ' ', ' ', 'V'] ++ hexUc b.toNat 1 ++ [' ', '[', 'I', ']'])

/-- R179; the token and the operand form are decision D16. -/
def Obligations.FamilyFUnknownRecordCarriesTheByte : Prop :=
  ∀ (b : Nibble) (kk : Byte),
    (kk ∉ [0x07#8, 0x0A#8, 0x15#8, 0x18#8, 0x1E#8, 0x29#8, 0x33#8, 0x55#8, 0x65#8] → decode (0xF#4 ++ (b ++ kk)) = .unkF b kk)
    ∧ Prints (.unkF b kk) (0xF#4 ++ (b ++ kk)) (['?', '?', '?', ' ', ' ', ' ', ' ', ' ', '0', 'x'] ++ hexLc kk.toNat 2)

/-- The frame of every instruction: the block executes nothing, so no form stores and no form has a destination. -/
def Obligations.InstructionFrame : Prop :=
  ∀ (i : Instr) (s t : State), exec i s = .next t →
    (∀ a : Nat, Memory.get t.memory a = Memory.get s.memory a) ∧ t.memory = s.memory
    ∧ t.loadedLength = s.loadedLength ∧ t.phase = s.phase ∧ t.requests = s.requests ∧ t.driver = s.driver ∧ t.freeCount = s.freeCount
    ∧ t.pc = s.pc + 2#16 ∧ ∃ l, t.out = s.out ++ [l] ∧ t.reply = .line l

/-- R192; the case of the letters is the spec's decision D17. -/
def Obligations.HexTextDigitByDigit : Prop :=
  (∀ v n : Nat, (hexLc v n).length = n ∧ (hexUc v n).length = n)
  ∧ (∀ v n k : Nat, k < n →
      (hexLc v n)[n - 1 - k]? = ['0', '1', '2', '3', '4', '5', '6', '7', '8', '9', 'a', 'b', 'c', 'd', 'e', 'f'][(v >>> (4 * k)) &&& 0xF]?
      ∧ (hexUc v n)[n - 1 - k]? = ['0', '1', '2', '3', '4', '5', '6', '7', '8', '9', 'A', 'B', 'C', 'D', 'E', 'F'][(v >>> (4 * k)) &&& 0xF]?)

/-- R190. -/
def Obligations.LineIsItsColumns : Prop :=
  (∀ (address : Nat) (w : Word), address ≤ 0xFFF →
    let ops := operands (dispatch w) (fields w)
    decodeWord address w = some
      (['@'] ++ hexLc address 3 ++ spaces 5 ++ ['0', 'x'] ++ hexLc w.toNat 4 ++ spaces 4
        ++ mnemonicField (dispatch w) ops ++ operandsText ops ++ ['\n']))
  ∧ decodeWord 0x202 0x6A3B#16 = some (['@', '2', '0', '2', ' ', ' ', ' ', ' ', ' '] ++ ['0', 'x', '6', 'a', '3', 'b', ' ', ' ', ' ', ' '] ++ ['L', 'D', ' ', ' ', ' ', ' ', ' ', ' ', 'V', 'A', ' ', '0', 'x', '3', 'b'] ++ ['\n'])
  ∧ (decodeWord 0x202 0x6A3B#16).map List.length = some 35

/-- R197. -/
def Obligations.OperandTextsJoinedByOneSpace : Prop :=
  (∀ ops : List Operand, operandsText ops = List.intercalate [' '] (ops.map operandText)) ∧ operandsText [] = []
  ∧ operandsText [.reg 0xA#4, .byte 0x3B#8] = ['V', 'A', ' ', '0', 'x', '3', 'b']
  ∧ operandsText [.reg 0xA#4, .reg 0xB#4] = ['V', 'A', ' ', 'V', 'B']
  ∧ operandsText [.reg 0x1#4, .reg 0x2#4, .nib 0xF#4] = ['V', '1', ' ', 'V', '2', ' ', '0', 'x', 'f']
  ∧ operandsText [.addr 0xABC#12] = ['@', 'a', 'b', 'c']

/-- The counts R199 and R191 give of the default TEXT_TABLE (parameter D28). -/
def Obligations.TextTableCounts : Prop :=
  entries.length = 38 ∧ entries.Nodup ∧ (∀ e : Entry, e ∈ entries)
  ∧ (entries.filter fun e => (textTable e).ground = .source).length = 5
  ∧ (entries.filter fun e => (textTable e).ground = .decision).length = 33
  ∧ (∀ e ∈ entries, (textTable e).mnemonic ∈ mnemonicTokens ∧ (textTable e).mnemonic.length ∈ [2, 3, 4])
  ∧ (∀ m ∈ mnemonicTokens, ∃ e ∈ entries, (textTable e).mnemonic = m)
  ∧ mnemonicTokens.length = 21 ∧ mnemonicTokens.Nodup
  ∧ mnemonicTokens = [['S', 'Y', 'S'], ['C', 'L', 'S'], ['R', 'E', 'T'], ['J', 'P'], ['C', 'A', 'L', 'L'], ['S', 'E'], ['S', 'N', 'E'],
      ['L', 'D'], ['A', 'D', 'D'], ['O', 'R'], ['A', 'N', 'D'], ['X', 'O', 'R'], ['S', 'U', 'B'], ['S', 'H', 'R'],
      ['S', 'U', 'B', 'N'], ['S', 'H', 'L'], ['R', 'N', 'D'], ['D', 'R', 'W'], ['S', 'K', 'P'], ['S', 'K', 'N', 'P'], ['?', '?', '?']]
  ∧ (entries.filter fun e => (textTable e).mnemonic = ['L', 'D']).length = 11
  ∧ (entries.filter fun e => (textTable e).mnemonic = ['A', 'D', 'D']).length = 3
  ∧ (entries.filter fun e => (textTable e).mnemonic = ['J', 'P']).length = 2
  ∧ (entries.filter fun e => (textTable e).mnemonic = ['S', 'E']).length = 2
  ∧ (entries.filter fun e => (textTable e).mnemonic = ['S', 'N', 'E']).length = 2
  ∧ (entries.filter fun e => (textTable e).mnemonic = ['?', '?', '?']).length = 3
  ∧ (∀ m ∈ mnemonicTokens, m ∉ [['L', 'D'], ['A', 'D', 'D'], ['J', 'P'], ['S', 'E'], ['S', 'N', 'E'], ['?', '?', '?']] →
      (entries.filter fun e => (textTable e).mnemonic = m).length = 1)

/-- R200, R201 and R202 (all derived or decided in the spec). -/
def Obligations.LineColumnsAndLength : Prop :=
  (∀ (address : Nat) (w : Word) (l : Line), decodeWord address w = some l →
    l[0]? = some '@' ∧ l[9]? = some '0' ∧ l[10]? = some 'x' ∧ (textTable (dispatch w)).mnemonic <+: l.drop 19
    ∧ ((textTable (dispatch w)).ops ≠ [] → l.drop 27 = operandsText (operands (dispatch w) (fields w)) ++ ['\n'])
    ∧ 22 ≤ l.length - 1 ∧ l.length - 1 ≤ 36)
  ∧ headerLines = [['A', 'D', 'D', 'R', ' ', ' ', ' ', ' ', ' ', 'I', 'N', 'S', 'T', 'R', ' ', ' ', ' ', ' ', ' ', 'N', 'A', 'M', 'E', ' ', ' ', ' ', ' ', 'A', 'R', 'G', 'S', '\n'],
      ['=', '=', '=', '=', ' ', ' ', ' ', ' ', ' ', '=', '=', '=', '=', '=', ' ', ' ', ' ', ' ', ' ', '=', '=', '=', '=', ' ', ' ', ' ', ' ', '=', '=', '=', '=', '\n']]
  ∧ ∀ h ∈ headerLines, h ≠ [] ∧ (h.drop 0).head? ≠ some ' ' ∧ (h.drop 4).take 5 = spaces 5 ∧ (h.drop 9).head? ≠ some ' '
    ∧ (h.drop 14).take 5 = spaces 5 ∧ (h.drop 19).head? ≠ some ' ' ∧ (h.drop 23).take 4 = spaces 4
    ∧ (h.drop 27).head? ≠ some ' ' ∧ h.length = 32

/-- R201 (derived there): a line can be decoded back to its word. -/
def Obligations.LineDeterminesAddressAndWord : Prop :=
  ∀ (a a' : Nat) (w w' : Word) (l : Line), decodeWord a w = some l → decodeWord a' w' = some l → a = a' ∧ w = w'

/-- The part of R201 that holds; its "exactly when they select the same entry" fails for UNK_E against UNK_F (log entry 14). -/
def Obligations.TailIsMnemonicAndOperands : Prop :=
  (∀ (a a' : Nat) (w w' : Word) (l l' : Line), decodeWord a w = some l → decodeWord a' w' = some l' →
    (l.drop 19 = l'.drop 19 ↔
      (textTable (dispatch w)).mnemonic = (textTable (dispatch w')).mnemonic
      ∧ operandsText (operands (dispatch w) (fields w)) = operandsText (operands (dispatch w') (fields w'))))
  ∧ (∀ (a a' : Nat) (w w' : Word) (l l' : Line), decodeWord a w = some l → decodeWord a' w' = some l' →
    (l.drop 19 = l'.drop 19 ↔
      (dispatch w = dispatch w' ∧ operands (dispatch w) (fields w) = operands (dispatch w') (fields w'))
      ∨ ((dispatch w = .UNK_E ∧ dispatch w' = .UNK_F ∨ dispatch w = .UNK_F ∧ dispatch w' = .UNK_E)
        ∧ (fields w).kk = (fields w').kk)))
  ∧ ∀ (b b' : Nibble) (kk : Byte) (l l' : Line), kk ∉ familyESelectors → kk ∉ familyFSelectors →
      decodeWord 0x200 (0xE#4 ++ (b ++ kk)) = some l → decodeWord 0x200 (0xF#4 ++ (b' ++ kk)) = some l' →
      l.drop 19 = l'.drop 19

/-- R198; the terminator is decision D18. -/
def Obligations.LineIsAsciiWithOneTerminator : Prop :=
  ∀ (address : Nat) (w : Word) (l : Line), decodeWord address w = some l →
    (∀ c ∈ l, c.toNat < 128) ∧ ∃ body, l = body ++ ['\n'] ∧ '\n' ∉ body

/-- R203 (derived there). -/
def Obligations.EveryLineFitsTheGrammar : Prop :=
  ∀ (address : Nat) (w : Word) (l : Line), decodeWord address w = some l → IsLine l

/-- The laws of the byte store (R8 `MemWrite`, R44, R45). -/
def Obligations.MemoryReadAfterWrite : Prop :=
  ∀ (m : Memory) (a : Nat), m.wf = true →
    (∀ v : Byte, a < 0x1000 → (Memory.set m a v).wf = true ∧ Memory.get (Memory.set m a v) a = v
      ∧ ∀ x, x ≠ a → Memory.get (Memory.set m a v) x = Memory.get m x)
    ∧ ∀ bs : List Byte, a + bs.length ≤ 0x1000 → (Memory.setBytes m a bs).wf = true
      ∧ (∀ j, j < bs.length → some (Memory.get (Memory.setBytes m a bs) (a + j)) = bs[j]?)
      ∧ ∀ x, x < a ∨ a + bs.length ≤ x → Memory.get (Memory.setBytes m a bs) x = Memory.get m x

/-- The model's canonical form (log entry 2) loses nothing and adds nothing. -/
def Obligations.EqualMemoriesAreEqualData : Prop :=
  ∀ m m' : Memory, m.wf = true → m'.wf = true → (∀ a, Memory.get m a = Memory.get m' a) → m = m'

/-- R90, R33; the repeated call is decision D6, the driver's own first move and its place in the loop are log entry 4. -/
def Obligations.InitializeSetsEveryValue : Prop :=
  ∀ (s : State) (rest : List Request),
    (s.requests = .init :: rest ∨ (s.phase = .uninit ∧ s.requests = [] ∧ rest = [])) →
    ∃ t, step s = .next t ∧ (∀ a, Memory.get t.memory a = 0x00#8) ∧ t.loadedLength = 0 ∧ t.pc = 0x0200#16
      ∧ t.phase = .empty ∧ t.out = [] ∧ t.reply = .nothing ∧ t.requests = rest ∧ t.driver = .asks ∧ isEnd t 0x200 = true

/-- R33, R240.  The reply, the driver's requests and place and the counter are the model's own (log entries 3, 4, 6). -/
def Obligations.ResetStateIsConsistent : Prop :=
  Inv State.reset ∧ Consistent State.reset ∧ (∀ a, Memory.get State.reset.memory a = 0x00#8)
    ∧ State.reset.loadedLength = 0 ∧ State.reset.pc = 0x0200#16 ∧ State.reset.phase = .empty ∧ State.reset.out = []
    ∧ EndedSuccessfully State.reset

/-- R93 (derived there from R90 and R92). -/
def Obligations.LoadedImagePostcondition : Prop :=
  ∀ (s : State) (bs : List Byte) (rest : List Request), s.phase = .empty → Consistent s → bs.length ≤ 0xE00 →
    s.requests = .load (.bytes bs) :: rest →
    ∃ t, step s = .next t ∧ (∀ i, i < 0x200 → Memory.get t.memory i = 0x00#8)
      ∧ (∀ j, j < bs.length → some (Memory.get t.memory (0x200 + j)) = bs[j]?)
      ∧ (∀ i, 0x200 + bs.length ≤ i → Memory.get t.memory i = 0x00#8)
      ∧ t.loadedLength.toNat = bs.length ∧ t.pc = 0x0200#16 ∧ t.out = [] ∧ t.phase = .loaded ∧ t.reply = .success
      ∧ t.requests = rest

/-- R211. -/
def Obligations.CapacityErrorCopiesNothing : Prop :=
  ∀ (s : State) (src : Source) (rest : List Request), s.phase = .empty → Consistent s → s.requests = .load src :: rest →
    (∀ bs, src = .bytes bs → bs.length > 0xE00 →
      ∃ t e, step s = .next t ∧ t.memory = s.memory ∧ (∀ a, Memory.get t.memory a = 0x00#8) ∧ t.loadedLength = 0
        ∧ t.pc = 0x0200#16 ∧ t.phase = .failed ∧ t.reply = .error e ∧ e.kind = .capacity ∧ t.requests = rest)
    ∧ (∀ bs, src = .bytes bs → bs.length = 3584 →
      ∃ t, step s = .next t ∧ t.phase = .loaded ∧ t.loadedLength.toNat = 0xE00)

/-- R212; loaded_length after an I/O error is decision D7 and the order of checks D8 (log entry 22, unsafe); the n open bytes are
free values (log entry 7). -/
def Obligations.InputOutputErrors : Prop :=
  ∀ (s : State) (src : Source) (rest : List Request), s.phase = .empty → Consistent s → s.requests = .load src :: rest →
    (src = .openFail →
      ∃ t e, step s = .next t ∧ t.memory = s.memory ∧ t.loadedLength = 0 ∧ t.pc = 0x0200#16 ∧ t.out = []
        ∧ t.phase = .failed ∧ t.reply = .error e ∧ e.kind = .io ∧ t.requests = rest)
    ∧ (∀ got lack, src = .short got lack → got.length + lack + 1 ≤ 0xE00 →
      ∃ t e, step s = .next t ∧ t.memory.wf = true
        ∧ (∀ a, a < 0x200 ∨ 0x200 + (got.length + lack + 1) ≤ a → Memory.get t.memory a = Memory.get s.memory a)
        ∧ t.loadedLength = 0 ∧ t.pc = 0x0200#16 ∧ t.out = [] ∧ t.phase = .failed ∧ t.reply = .error e ∧ e.kind = .io
        ∧ t.requests = rest)
    ∧ (∀ got lack, src = .short got lack → got.length + lack + 1 > 0xE00 →
      ∃ t e, step s = .next t ∧ t.memory = s.memory ∧ t.loadedLength = 0 ∧ t.pc = 0x0200#16 ∧ t.out = []
        ∧ t.phase = .failed ∧ t.reply = .error e ∧ e.kind = .capacity ∧ t.requests = rest)

/-- R215: nothing is saved anywhere and control returns to the driver; the phase and the refusals are the spec's own (D21, D6).
`loaded_length` as before after an I/O error is decision D7 (R212), log entry 22, unsafe; the unchanged state of a terminated
driver is log entry 4. -/
def Obligations.ErrorsAreReturnedAndSaveNothing : Prop :=
  (∀ s t : State, step s = .next t → s.phase ≠ .failed → t.phase = .failed →
    s.phase = .empty ∧ (∃ src rest, s.requests = .load src :: rest ∧ t.requests = rest)
    ∧ (∃ e, t.reply = .error e ∧ (e.kind = .capacity ∨ e.kind = .io))
    ∧ t.pc = s.pc ∧ t.loadedLength = s.loadedLength ∧ t.out = s.out)
  ∧ (∀ (s : State) (r : Request) (rest : List Request), s.phase = .failed → s.requests = r :: rest → r ≠ .init →
    step s = .refused (.notAdmitted r.op .failed))
  ∧ (∀ s t : State, step s = .next t → (∀ src rest, s.requests ≠ .load src :: rest) →
    (∀ e, t.reply ≠ .error e) ∨ t = s)

/-- R94; the comparison on naturals is decision D25, the driver's place is log entry 4. -/
def Obligations.EndPredicateIsAnsweredOnly : Prop :=
  ∀ (s : State) (cursor : Nat) (rest : List Request), (s.phase = .empty ∨ s.phase = .loaded) →
    s.requests = .isEnd cursor :: rest →
    step s = .next { s with
      requests := rest
      reply := .ended (decide (cursor ≥ 0x200 + s.loadedLength.toNat))
      driver := if cursor = s.pc.toNat then (if cursor ≥ 0x200 + s.loadedLength.toNat then .ended else .decodes) else .asks }

/-- R246.  The reply `noLine` is the choice of log entry 21 (D5), the driver's place that of log entry 4.  The driver of R244 never
makes this step by itself: it has then been told that the end is reached, and has terminated. -/
def Obligations.DecodeStepAtTheEndDoesNothing : Prop :=
  ∀ (s : State) (rest : List Request), DecodesNext s rest → isEnd s s.pc.toNat = true →
    step s = .next { s with requests := rest, driver := .asks, reply := .noLine }

/-- R100; the driver's requests and place are the model's (log entry 4). -/
def Obligations.StepRunsTheDecodedInstruction : Prop :=
  ∀ (s : State) (rest : List Request) (i : Instr), DecodesNext s rest → isEnd s s.pc.toNat = false →
    decodeBytes (fetchBytes s.memory s.pc.toNat) = .ok i → i.wf = true →
    step s = exec i { s with requests := rest, driver := .asks }

/-- R102; that both addresses are in memory is R22's consequence of the invariant.  The driver's requests and place are the
model's (log entry 4). -/
def Obligations.FetchReadsTwoBytesBigEndian : Prop :=
  (∀ (s : State) (rest : List Request), Consistent s → DecodesNext s rest → isEnd s s.pc.toNat = false →
    s.pc.toNat + 1 ≤ 0xFFF
    ∧ step s = exec (decode (BitVec.ofNat 16
        ((Memory.get s.memory s.pc.toNat).toNat * 256 + (Memory.get s.memory (s.pc.toNat + 1)).toNat)))
        { s with requests := rest, driver := .asks }
    ∧ (∃ t, step s = .next t ∧ t.memory = s.memory)
    ∧ ∀ m t t', Memory.get m s.pc.toNat = Memory.get s.memory s.pc.toNat →
      Memory.get m (s.pc.toNat + 1) = Memory.get s.memory (s.pc.toNat + 1) →
      step s = .next t → step { s with memory := m } = .next t' → t'.pc = t.pc ∧ t'.out = t.out ∧ t'.reply = t.reply)
  ∧ memReadWord [(0x202, 0x6A#8), (0x203, 0x3B#8)] 0x202 = some 0x6A3B#16

/-- R70. -/
def Obligations.NoWordStopsTheBlock : Prop :=
  ∀ (s : State) (rest : List Request), DecodesNext s rest → isEnd s s.pc.toNat = false → s.pc.toNat ≤ 0xFFE →
    ∃ t l, step s = .next t ∧ t.pc.toNat = s.pc.toNat + 2 ∧ t.out = s.out ++ [l] ∧ t.reply = .line l

/-- R21. -/
def Obligations.CursorMovesOnlyByDecoding : Prop :=
  ∀ s t : State, step s = .next t →
    (((∃ rest, s.requests = .init :: rest) ∨ (s.phase = .uninit ∧ s.requests = [])) ∧ t.pc = 0x0200#16)
    ∨ ((∃ rest, DecodesNext s rest) ∧ isEnd s s.pc.toNat = false ∧ t.pc = s.pc + 2#16
        ∧ ∃ l, decodeAt s.memory s.pc.toNat = some l ∧ t.out = s.out ++ [l])
    ∨ ((∃ rest, DecodesNext s rest) ∧ isEnd s s.pc.toNat = true ∧ t.pc = s.pc ∧ t.out = s.out)
    ∨ ((∀ rest, ¬ DecodesNext s rest) ∧ (∀ rest, s.requests ≠ .init :: rest) ∧ s.phase ≠ .uninit ∧ t.pc = s.pc ∧ t.out = s.out)

/-- R44.  The clauses about failing loads and about `FAILED` rest on D6, D7 and D8 (log entry 22), the open values of a
short read on log entry 7, and the driver's own `initialize` on log entry 4. -/
def Obligations.MemoryIsWrittenOnlyByInitializeAndLoad : Prop :=
  (∀ s t : State, ((∃ rest, s.requests = .init :: rest) ∨ (s.phase = .uninit ∧ s.requests = [])) → step s = .next t →
      (∀ a, Memory.get t.memory a = 0x00#8)
      ∧ (s.memory.wf = true → t.memory = (List.range 0x1000).foldl (fun m i => Memory.set m i 0x00#8) s.memory))
  ∧ (∀ (s t : State) (bs : List Byte) (rest : List Request), s.memory.wf = true → s.requests = .load (.bytes bs) :: rest →
      bs.length ≤ 0xE00 → step s = .next t →
      t.memory = (List.range bs.length).foldl (fun m j => Memory.set m (0x200 + j) (bs.getD j 0x00#8)) s.memory
      ∧ (∀ j, j < bs.length → some (Memory.get t.memory (0x200 + j)) = bs[j]?)
      ∧ ∀ a, a < 0x200 ∨ 0x200 + bs.length ≤ a → Memory.get t.memory a = Memory.get s.memory a)
  ∧ (∀ (s t : State) (src : Source) (rest : List Request), s.requests = .load src :: rest →
      (src = .openFail ∨ (∃ bs, src = .bytes bs ∧ bs.length > 0xE00)
        ∨ (∃ got lack, src = .short got lack ∧ got.length + lack + 1 > 0xE00)) →
      step s = .next t → t.memory = s.memory)
  ∧ (∀ (s t : State) (got : List Byte) (lack : Nat) (rest : List Request), s.memory.wf = true →
      s.requests = .load (.short got lack) :: rest → got.length + lack + 1 ≤ 0xE00 → step s = .next t →
      (∃ vs : List Byte, vs.length = got.length + lack + 1
        ∧ t.memory = (List.range vs.length).foldl (fun m j => Memory.set m (0x200 + j) (vs.getD j 0x00#8)) s.memory)
      ∧ ∀ a, a < 0x200 ∨ 0x200 + (got.length + lack + 1) ≤ a → Memory.get t.memory a = Memory.get s.memory a)
  ∧ (∀ s t : State, s.phase ≠ .uninit → step s = .next t → (∀ rest, s.requests ≠ .init :: rest) →
      (∀ src rest, s.requests ≠ .load src :: rest) → t.memory = s.memory)
  ∧ (∀ (m : Memory) (a : Nat) (v : Byte) (x : Nat), m.wf = true → a < 0x1000 → x ≠ a →
      Memory.get (Memory.set m a v) x = Memory.get m x)
  ∧ (∀ (s : State) (r : Request) (rest : List Request), s.phase = .failed → s.requests = r :: rest → r ≠ .init →
      step s = .refused (.notAdmitted r.op .failed))

/-- R105, for all 65536 words (C6). -/
def Obligations.DecodingDependsOnAddressAndBytesAlone : Prop :=
  (∀ (s s' t t' : State) (rest rest' : List Request), DecodesNext s rest → DecodesNext s' rest' →
    isEnd s s.pc.toNat = false → isEnd s' s'.pc.toNat = false → s.pc = s'.pc →
    Memory.get s.memory s.pc.toNat = Memory.get s'.memory s.pc.toNat →
    Memory.get s.memory (s.pc.toNat + 1) = Memory.get s'.memory (s.pc.toNat + 1) →
    step s = .next t → step s' = .next t' → ∃ l, t.out = s.out ++ [l] ∧ t'.out = s'.out ++ [l])
  ∧ (∀ (w : Word) (a a' : Nat) (l l' : Line), decodeWord a w = some l → decodeWord a' w = some l' →
    l.take 1 = l'.take 1 ∧ l.drop 4 = l'.drop 4)

/-- R221, R25, R47, R109: the spec's own decisions (D6, D21, D22, D23). -/
def Obligations.RefusedExactlyOutOfOrder : Prop :=
  (∀ (s : State) (r : Request) (rest : List Request), Inv s → s.requests = r :: rest →
    ((∃ x, step s = .refused x) ↔
      (s.phase = .uninit ∧ r ≠ .init)
      ∨ ((∃ src, r = .load src) ∧ (s.phase = .loaded ∨ s.phase = .failed))
      ∨ (s.phase = .failed ∧ ((∃ c, r = .isEnd c) ∨ r = .decodeStep))))
  ∧ (∀ (address : Nat) (w : Word), decodeWord address w = none ↔ 0xFFF < address)
  ∧ (∀ (m : Memory) (address : Nat), memReadWord m address = none ↔ 0xFFE < address)
  ∧ (∀ (m : Memory) (address : Nat), decodeAt m address = none ↔ 0xFFE < address)

/-- R25, R216. -/
def Obligations.PhaseTransitions : Prop :=
  ∀ s t : State, step s = .next t →
    (t.phase = s.phase ∧ s.phase ≠ .uninit ∧ s.phase ≠ .failed
      ∨ t.phase = .empty ∧ ((∃ rest, s.requests = .init :: rest) ∨ (s.phase = .uninit ∧ s.requests = []))
      ∨ s.phase = .empty ∧ t.phase = .loaded ∧ (∃ src rest, s.requests = .load src :: rest ∧ src.accepted = true)
      ∨ s.phase = .empty ∧ t.phase = .failed ∧ (∃ src rest, s.requests = .load src :: rest ∧ src.accepted = false))

/-- The invariants of R22, R24, R25, R41 and R109 together, from every state that has them, not only from reset.  That they say
where the driver stands (R244) is the model's, log entry 4; that nothing is loaded in `FAILED` after an I/O error is decision
D7 (R212), log entry 22, unsafe. -/
def Obligations.StepKeepsTheInvariant : Prop :=
  ∀ s t : State, Inv s → step s = .next t → Inv t

/-- R222 "Stuck: never", R244 "always `some line` here".  The driver's moves, and the step of a driver that has terminated, which
answers the same state, are log entry 4; the fault at the end of a failed run is log entry 5. -/
def Obligations.ProtocolNeverRefused : Prop :=
  ∀ s : State, Inv s → keepsProtocol s.position s.requests = true →
    (∃ t, step s = .next t ∧ keepsProtocol t.position t.requests = true
      ∧ ∀ rest, DecodesNext s rest → ∃ l, t.reply = .line l ∧ t.out = s.out ++ [l])
    ∨ (s.phase = .failed ∧ s.requests = [] ∧ step s = .fault .runFailed)

/-- R108, R245 for every image; the zero pad of an odd image is policy D4, the driver's own loop, and that a
step after it has terminated answers the same state, is log entry 4. -/
def Obligations.RunPrintsTheWholeImage : Prop :=
  ∀ (s : State) (bs : List Byte), bs.length ≤ 0xE00 → s.requests = driverScript (.bytes bs) →
    ∃ t : State, (∀ n, Host.Core.run Sys2Proof.core (3 + 2 * ((bs.length + 1) / 2) + n) s = .next t)
      ∧ t.driver = .ended ∧ t.phase = .loaded ∧ t.pc.toNat = 0x200 + 2 * ((bs.length + 1) / 2) ∧ EndedSuccessfully t
      ∧ t.out.length = (bs.length + 1) / 2
      ∧ ∀ k, k < (bs.length + 1) / 2 →
          t.out[k]? = decodeWord (0x200 + 2 * k)
            (BitVec.ofNat 16 ((bs.getD (2 * k) 0x00#8).toNat * 256 + (bs.getD (2 * k + 1) 0x00#8).toNat))

/-- R222, R245; that the fault comes one step after the error is log entry 5.  `loaded_length` 0 after an unopenable or short
source is decision D7 (R212), log entry 22, unsafe. -/
def Obligations.FailedLoadEndsTheRun : Prop :=
  ∀ (s : State) (src : Source), src.accepted = false → s.requests = driverScript src →
    (∃ t : State, Host.Core.run Sys2Proof.core 2 s = .next t ∧ EndedInFailure t ∧ t.out = [] ∧ t.loadedLength = 0
      ∧ t.pc = 0x0200#16 ∧ ∃ e, t.reply = .error e)
    ∧ Host.Core.run Sys2Proof.core 3 s = .fault .runFailed

/-- R248 under its premise `ODD_LENGTH_POLICY = pad_zero` (D4). -/
def Obligations.OddImageIsPaddedWithZero : Prop :=
  ∀ (s : State) (rest : List Request) (q : Nat), Consistent s → s.phase = .loaded → DecodesNext s rest →
    s.loadedLength.toNat = 2 * q + 1 → s.pc.toNat = 0x200 + 2 * q →
    ∃ t l, step s = .next t ∧ decodeWord s.pc.toNat (BitVec.ofNat 16 ((Memory.get s.memory s.pc.toNat).toNat * 256)) = some l
      ∧ t.out = s.out ++ [l] ∧ t.pc.toNat = 0x200 + s.loadedLength.toNat + 1 ∧ isEnd t t.pc.toNat = true

/-- The host's placement of a word (log entry 8); the driver's place is log entry 4. -/
def Obligations.PlacedWordIsTheNextInstruction : Prop :=
  ∀ (s : State) (w : Nat), s.memory.wf = true → w < 2 ^ 16 →
    step (s.withFetchWord 16 w) = exec (decode (BitVec.ofNat 16 w)) { s.withFetchWord 16 w with requests := s.requests, driver := .asks }
    ∧ ∃ t, step (s.withFetchWord 16 w) = .next t

/-- R244's program, in the model's own terms (log entry 4): the driver is part of the machine, and once it has terminated with
status zero its step answers the same state.  The fault of a failed run is log entry 5. -/
def Obligations.DriverRunsItsLoop : Prop :=
  ∀ s : State, s.requests = [] →
    (s.phase = .uninit → ∃ t, step s = .next t ∧ t.phase = .empty ∧ t.requests = [] ∧ t.driver = .asks)
    ∧ ((s.phase = .empty ∨ s.phase = .loaded) → s.driver = .asks →
      step s = .next { s with
        driver := if 0x200 + s.loadedLength.toNat ≤ s.pc.toNat then .ended else .decodes
        reply := .ended (decide (0x200 + s.loadedLength.toNat ≤ s.pc.toNat)) })
    ∧ ((s.phase = .empty ∨ s.phase = .loaded) → s.driver = .decodes → Consistent s →
      ∃ t l, step s = .next t ∧ t.reply = .line l ∧ t.out = s.out ++ [l] ∧ t.pc = s.pc + 2#16 ∧ t.requests = []
        ∧ t.driver = .asks ∧ t.phase = s.phase ∧ t.memory = s.memory ∧ t.loadedLength = s.loadedLength)
    ∧ ((s.phase = .empty ∨ s.phase = .loaded) → s.driver = .ended → step s = .next s)
    ∧ (s.phase = .failed → step s = .fault .runFailed)
end

