-- ==== Sys2Proof/Laws/Bits.lean ====
section
/-! SUPPORT. The field extractor on a word given as its fields (spec/41_fetch_and_fields.md R103), and a word put together
again from its fields. -/

namespace Sys2Proof.Laws

/-! ### Slices of a concatenation -/

theorem extract_append_high {m n : Nat} (p : BitVec m) (x : BitVec n) : (p ++ x).extractLsb' n m = p := by
  ext i hi
  simp [BitVec.getLsbD_append, hi]

theorem extract_append_low {m n : Nat} (p : BitVec m) (x : BitVec n) {k j : Nat} (h : k + j ≤ n) :
    (p ++ x).extractLsb' k j = x.extractLsb' k j := by
  ext i hi
  have hk : k + i < n := by omega
  simp [BitVec.getLsbD_append, hk]

theorem extract_split {m n : Nat} (w : BitVec (m + n)) : w.extractLsb' n m ++ w.extractLsb' 0 n = w := by
  ext i hi
  simp

theorem byte_split (k : Byte) : (k.extractLsb' 4 4 ++ k.extractLsb' 0 4 : Byte) = k :=
  extract_split (m := 4) (n := 4) k

theorem addr_split (x : Addr) : (x.extractLsb' 8 4 ++ x.extractLsb' 0 8 : Addr) = x :=
  extract_split (m := 4) (n := 8) x

/-! ### The extractor -/

/-- The extractor in slices of the word: the document's two definitions of `kk`, and of `nnn`, agree (R103). -/
theorem fields_eq_slices (w : Word) :
    fields w = { a := w.extractLsb' 12 4, b := w.extractLsb' 8 4, c := w.extractLsb' 4 4, d := w.extractLsb' 0 4,
                 kk := w.extractLsb' 0 8, nnn := w.extractLsb' 0 12 } := by
  have kk : (w.extractLsb' 4 4 ++ w.extractLsb' 0 4 : Byte) = w.extractLsb' 0 8 := by
    rw [← byte_split (w.extractLsb' 0 8)]
    congr 1 <;> · ext i hi; simp; try omega
  have nnn : (w.extractLsb' 8 4 ++ w.extractLsb' 0 8 : Addr) = w.extractLsb' 0 12 := by
    rw [← addr_split (w.extractLsb' 0 12)]
    congr 1 <;> · ext i hi; simp; try omega
  simp only [fields, kk, nnn]

/-- The fields of a word given as `a` and `nnn`. -/
theorem fields_append_addr (a : Nibble) (x : Addr) :
    fields (a ++ x) = { a := a, b := x.extractLsb' 8 4, c := x.extractLsb' 4 4, d := x.extractLsb' 0 4,
                        kk := x.extractLsb' 0 8, nnn := x } := by
  have whole : x.extractLsb' 0 12 = x := by simp
  rw [fields_eq_slices, show (a ++ x : Word).extractLsb' 12 4 = a from extract_append_high a x,
    show (a ++ x : Word).extractLsb' 8 4 = _ from extract_append_low a x (by decide),
    show (a ++ x : Word).extractLsb' 4 4 = _ from extract_append_low a x (by decide),
    show (a ++ x : Word).extractLsb' 0 4 = _ from extract_append_low a x (by decide),
    show (a ++ x : Word).extractLsb' 0 8 = _ from extract_append_low a x (by decide),
    show (a ++ x : Word).extractLsb' 0 12 = _ from extract_append_low a x (by decide), whole]

/-- The fields of a word given as `a`, `b` and `kk`. -/
theorem fields_append_byte (a b : Nibble) (k : Byte) :
    fields (a ++ (b ++ k)) = { a := a, b := b, c := k.extractLsb' 4 4, d := k.extractLsb' 0 4, kk := k, nnn := b ++ k } := by
  have whole : k.extractLsb' 0 8 = k := by simp
  refine (fields_append_addr a (b ++ k)).trans ?_
  rw [show (b ++ k : Addr).extractLsb' 8 4 = b from extract_append_high b k,
    show (b ++ k : Addr).extractLsb' 4 4 = _ from extract_append_low b k (by decide),
    show (b ++ k : Addr).extractLsb' 0 4 = _ from extract_append_low b k (by decide),
    show (b ++ k : Addr).extractLsb' 0 8 = _ from extract_append_low b k (by decide), whole]

/-- The fields of a word given as its four nibbles. -/
theorem fields_append_nibbles (a b c d : Nibble) :
    fields (a ++ (b ++ (c ++ d))) = { a := a, b := b, c := c, d := d, kk := c ++ d, nnn := b ++ (c ++ d) } := by
  have whole : d.extractLsb' 0 4 = d := by simp
  refine (fields_append_byte a b (c ++ d)).trans ?_
  rw [show (c ++ d : Byte).extractLsb' 4 4 = c from extract_append_high c d,
    show (c ++ d : Byte).extractLsb' 0 4 = _ from extract_append_low c d (by decide), whole]

/-- A word is its `a` and its `nnn` (R103). -/
theorem word_eq_append_addr (w : Word) : w = (fields w).a ++ (fields w).nnn := by
  rw [fields_eq_slices]
  exact (extract_split (m := 4) (n := 12) w).symm

/-- `nnn` is `b` and `kk` (R103). -/
theorem fields_nnn_eq (w : Word) : (fields w).nnn = (fields w).b ++ (fields w).kk := rfl

/-- `kk` is `c` and `d` (R103). -/
theorem fields_kk_eq (w : Word) : (fields w).kk = (fields w).c ++ (fields w).d := rfl

/-- A word is its two bytes in memory order (R42). -/
theorem wordOfBytes_bytes (w : Word) : wordOfBytes (highByte w) (lowByte w) = w := extract_split (m := 8) (n := 8) w

theorem highByte_wordOfBytes (hi lo : Byte) : highByte (wordOfBytes hi lo) = hi := extract_append_high hi lo

theorem lowByte_wordOfBytes (hi lo : Byte) : lowByte (wordOfBytes hi lo) = lo := by
  have whole : lo.extractLsb' 0 8 = lo := by simp
  exact (extract_append_low hi lo (by decide)).trans whole

/-- The number two bytes stand for (R106). -/
theorem wordOfBytes_toNat (hi lo : Byte) : (wordOfBytes hi lo).toNat = hi.toNat * 256 + lo.toNat := by
  have h : lo.toNat < 2 ^ 8 := lo.isLt
  rw [wordOfBytes, BitVec.toNat_append, ← Nat.shiftLeft_add_eq_or_of_lt h, Nat.shiftLeft_eq]

end Sys2Proof.Laws
end

