-- ==== Sys2Proof/Laws/Decode.lean ====
section
/-! SUPPORT. The dispatch on a word given as its fields (spec/30_encoding.md R65): what is left of `decode` is the case
distinction on numerals. -/

namespace Sys2Proof.Laws

/-- The sixteen values of a nibble. -/
theorem nibble_cases (a : Nibble) :
    a = 0x0#4 ∨ a = 0x1#4 ∨ a = 0x2#4 ∨ a = 0x3#4 ∨ a = 0x4#4 ∨ a = 0x5#4 ∨ a = 0x6#4 ∨ a = 0x7#4
      ∨ a = 0x8#4 ∨ a = 0x9#4 ∨ a = 0xA#4 ∨ a = 0xB#4 ∨ a = 0xC#4 ∨ a = 0xD#4 ∨ a = 0xE#4 ∨ a = 0xF#4 := by
  revert a
  decide

/-- `nnn` is its three nibbles (R103). -/
theorem addr_nibbles (x : Addr) :
    x.extractLsb' 8 4 ++ (x.extractLsb' 4 4 ++ x.extractLsb' 0 4 : Byte) = x := by
  have low : (x.extractLsb' 4 4 ++ x.extractLsb' 0 4 : Byte) = x.extractLsb' 0 8 := by
    rw [← byte_split (x.extractLsb' 0 8)]
    congr 1 <;> · ext i hi; simp; try omega
  rw [low]
  exact addr_split x

theorem decode_append_addr (a : Nibble) (x : Addr) :
    decode (a ++ x) = decodeFields ⟨a, x.extractLsb' 8 4, x.extractLsb' 4 4, x.extractLsb' 0 4, x.extractLsb' 0 8, x⟩ := by
  rw [decode, fields_append_addr]

theorem decode_append_byte (a b : Nibble) (k : Byte) :
    decode (a ++ (b ++ k)) = decodeFields ⟨a, b, k.extractLsb' 4 4, k.extractLsb' 0 4, k, b ++ k⟩ := by
  rw [decode, fields_append_byte]

theorem decode_append_nibbles (a b c d : Nibble) :
    decode (a ++ (b ++ (c ++ d))) = decodeFields ⟨a, b, c, d, c ++ d, b ++ (c ++ d)⟩ := by
  rw [decode, fields_append_nibbles]

/-- `wordOfBytes` as a number (R106). -/
theorem wordOfBytes_ofNat (hi lo : Byte) : wordOfBytes hi lo = BitVec.ofNat 16 (hi.toNat * 256 + lo.toNat) := by
  apply BitVec.eq_of_toNat_eq
  rw [wordOfBytes_toNat, BitVec.toNat_ofNat, Nat.mod_eq_of_lt]
  exact show hi.toNat * 256 + lo.toNat < 2 ^ 16 by omega

end Sys2Proof.Laws
end

