-- ==== Sys2Proof/Laws/Format.lean ====
section
/-! SUPPORT. The formatter's own small lemmas (spec/47_line_format.md): digit counts, the columns, and the operand list of
each row of `TEXT_TABLE`. -/

namespace Sys2Proof.Machine

/-- `hex_lc` and `hex_uc` write exactly `n` digits (R192). -/
@[simp] theorem hexText_length (ds : List Char) (v n : Nat) : (hexText ds v n).length = n := by
  induction n with
  | zero => rfl
  | succ k ih => simp [hexText, ih]

@[simp] theorem hexLc_length (v n : Nat) : (hexLc v n).length = n := hexText_length _ _ _

@[simp] theorem hexUc_length (v n : Nat) : (hexUc v n).length = n := hexText_length _ _ _

@[simp] theorem spaces_length (n : Nat) : (spaces n).length = n := by simp [spaces]

/-- Every digit is one of the alphabet (R192). -/
theorem mem_hexText {ds : List Char} (hds : ds.length = 16) {v n : Nat} {c : Char} (h : c ∈ hexText ds v n) : c ∈ ds := by
  induction n with
  | zero => cases h
  | succ k ih =>
    rcases List.mem_cons.mp h with rfl | h
    · have hd : (v >>> (4 * k)) &&& 0xF < ds.length := by
        rw [hds, show (0xF : Nat) = 2 ^ 4 - 1 from rfl, Nat.and_two_pow_sub_one_eq_mod]
        omega
      rw [List.getD_eq_getElem _ _ hd]
      exact List.getElem_mem hd
    · exact ih h

/-- Digits of one alphabet without repeats determine the number they spell (R192). -/
theorem hexText_inj {ds : List Char} (hds : ds.length = 16) (hnd : ds.Nodup) {n : Nat} :
    ∀ {v w : Nat}, v < 16 ^ n → w < 16 ^ n → hexText ds v n = hexText ds w n → v = w := by
  have digit : ∀ v k : Nat, (v >>> (4 * k)) &&& 0xF = v / 16 ^ k % 16 := fun v k => by
    rw [show (0xF : Nat) = 2 ^ 4 - 1 from rfl, Nat.and_two_pow_sub_one_eq_mod, Nat.shiftRight_eq_div_pow, Nat.pow_mul]
  have low : ∀ (n v w : Nat), hexText ds v n = hexText ds w n → v % 16 ^ n = w % 16 ^ n := by
    intro n
    induction n with
    | zero => intro v w _; rw [Nat.pow_zero, Nat.mod_one, Nat.mod_one]
    | succ k ih =>
      intro v w h
      obtain ⟨hd, ht⟩ := List.cons.inj h
      rw [digit, digit, List.getD_eq_getElem _ _ (by omega), List.getD_eq_getElem _ _ (by omega)] at hd
      have hd := (List.Nodup.getElem_inj_iff hnd).mp hd
      rw [Nat.pow_succ, Nat.mod_mul, Nat.mod_mul, ih v w ht, hd]
  intro v w hv hw h
  rw [← Nat.mod_eq_of_lt hv, ← Nat.mod_eq_of_lt hw]
  exact low n v w h

theorem hexLc_inj {v w n : Nat} (hv : v < 16 ^ n) (hw : w < 16 ^ n) (h : hexLc v n = hexLc w n) : v = w :=
  hexText_inj rfl (by decide) hv hw h

theorem hexUc_inj {v w n : Nat} (hv : v < 16 ^ n) (hw : w < 16 ^ n) (h : hexUc v n = hexUc w n) : v = w :=
  hexText_inj rfl (by decide) hv hw h

/-- The columns before the mnemonic are 19 characters, so the mnemonic starts at column 19 (R200). -/
@[simp] theorem lineHead_length (address : Nat) (opcode : Word) : (lineHead address opcode).length = 19 := by
  simp [lineHead]

/-- A token that takes operands is padded to 8 columns, so the operands start at column 27 (R191, R200). -/
theorem mnemonicField_length (e : Entry) {ops : List Operand} (h : ops ≠ []) : (mnemonicField e ops).length = 8 := by
  simp only [mnemonicField, if_neg h, Config.colMnemonicPad, List.length_append, spaces_length]
  cases e <;> rfl

/-- `DecodeWord` is defined exactly where the address has three digits (R109). -/
theorem lineOf_eq (address : Nat) (w : Word) (e : Entry) :
    lineOf address w e = if address < 0x1000 then some (formatLine (mkRecord address w e)) else none := by
  by_cases h : address < 0x1000 <;> simp [lineOf, addressPrintable, Config.memSize, h]

end Sys2Proof.Machine
end

