-- ==== Sys2Proof/Laws/Memory.lean ====
section
/-! SUPPORT. What a write and a read of `memory` do, once (spec/20_memory.md R44, R45): read after write, every other byte
as before, and the canonical form kept. -/

namespace Sys2Proof.Machine

@[simp] theorem get_empty (a : Nat) : Memory.get [] a = 0x00#8 := rfl

/-! ### The canonical form -/

theorem wfFrom_mono {lo lo' : Nat} (h : lo' ≤ lo) : ∀ {m : Memory}, Memory.wfFrom lo m = true → Memory.wfFrom lo' m = true
  | [], _ => rfl
  | (a, v) :: rest, hm => by
    simp only [Memory.wfFrom, Bool.and_eq_true, decide_eq_true_eq] at hm ⊢
    exact ⟨⟨⟨by omega, hm.1.1.2⟩, hm.1.2⟩, hm.2⟩

/-- Below the bound of a canonical list nothing is listed. -/
theorem get_of_lt_wfFrom {lo a : Nat} (h : a < lo) : ∀ {m : Memory}, Memory.wfFrom lo m = true → Memory.get m a = 0x00#8
  | [], _ => rfl
  | (b, v) :: rest, hm => by
    simp only [Memory.wfFrom, Bool.and_eq_true, decide_eq_true_eq] at hm
    rw [Memory.get, if_neg (by omega)]
    exact get_of_lt_wfFrom (by omega) hm.2

/-- A write inside `memory` keeps the canonical form. -/
theorem set_wfFrom {lo a : Nat} (v : Byte) (hlo : lo ≤ a) (ha : a < Config.memSize) :
    ∀ {m : Memory}, Memory.wfFrom lo m = true → Memory.wfFrom lo (Memory.set m a v) = true
  | [], _ => by
    unfold Memory.set
    split <;> simp_all [Memory.wfFrom]
  | (b, w) :: rest, hm => by
    have hm' := hm
    simp only [Memory.wfFrom, Bool.and_eq_true, decide_eq_true_eq] at hm
    unfold Memory.set
    split
    · split
      · exact hm'
      · rename_i hab hv
        simp only [Memory.wfFrom, Bool.and_eq_true, decide_eq_true_eq]
        exact ⟨⟨⟨hlo, ha⟩, hv⟩, ⟨⟨⟨by omega, hm.1.1.2⟩, hm.1.2⟩, hm.2⟩⟩
    · split
      · rename_i hab
        subst hab
        split
        · exact wfFrom_mono (by omega) hm.2
        · rename_i hv
          simp only [Memory.wfFrom, Bool.and_eq_true, decide_eq_true_eq]
          exact ⟨⟨⟨hlo, ha⟩, hv⟩, hm.2⟩
      · simp only [Memory.wfFrom, Bool.and_eq_true, decide_eq_true_eq]
        exact ⟨⟨⟨hm.1.1.1, hm.1.1.2⟩, hm.1.2⟩, set_wfFrom v (by omega) ha hm.2⟩

/-- A write inside `memory` keeps `Memory.wf`. -/
theorem set_keeps_wf {m : Memory} {a : Nat} (v : Byte) (hm : m.wf = true) (ha : a < Config.memSize) :
    Memory.wf (Memory.set m a v) = true := set_wfFrom v (Nat.zero_le _) ha hm

/-- A run of writes inside `memory` keeps `Memory.wf`. -/
theorem setBytes_keeps_wf : ∀ {bs : List Byte} {m : Memory} {a : Nat}, m.wf = true →
    a + bs.length ≤ Config.memSize → Memory.wf (Memory.setBytes m a bs) = true
  | [], _, _, hm, _ => hm
  | v :: rest, _, _, hm, ha => by
    simp only [List.length_cons] at ha
    rw [Memory.setBytes]
    exact setBytes_keeps_wf (set_keeps_wf v hm (by omega)) (by omega)

/-! ### Read after write -/

/-- A write in a canonical memory is seen at its address and nowhere else. -/
theorem get_set_wfFrom {lo a : Nat} (v : Byte) (x : Nat) :
    ∀ {m : Memory}, Memory.wfFrom lo m = true → Memory.get (Memory.set m a v) x = if x = a then v else Memory.get m x
  | [], _ => by
    unfold Memory.set
    split <;> by_cases hx : x = a <;> simp_all [Memory.get]
  | (b, w) :: rest, hm => by
    have hm' := hm
    simp only [Memory.wfFrom, Bool.and_eq_true, decide_eq_true_eq] at hm
    unfold Memory.set
    split
    · rename_i hab
      split
      · rename_i hv
        by_cases hx : x = a
        · subst hx
          rw [if_pos rfl, hv, Memory.get, if_neg (by omega)]
          exact get_of_lt_wfFrom (by omega) hm.2
        · rw [if_neg hx]
      · simp only [Memory.get]
    · split
      · rename_i hab
        subst hab
        split
        · rename_i hv
          by_cases hx : x = a
          · subst hx
            rw [if_pos rfl, hv]
            exact get_of_lt_wfFrom (by omega) hm.2
          · simp [Memory.get, hx]
        · by_cases hx : x = a <;> simp [Memory.get, hx]
      · rename_i hab hne
        simp only [Memory.get]
        by_cases hxb : x = b
        · subst hxb
          simp [Ne.symm hne]
        · rw [if_neg hxb, if_neg hxb]
          exact get_set_wfFrom v x hm.2

/-- Read after write (R45): the byte written at its own address, every other byte as before. -/
theorem get_set {m : Memory} (hm : m.wf = true) (a : Nat) (v : Byte) (x : Nat) :
    Memory.get (Memory.set m a v) x = if x = a then v else Memory.get m x := get_set_wfFrom v x hm

/-- What a run of bytes written from `a` up leaves at every address (R44). -/
theorem get_setBytes : ∀ {bs : List Byte} {m : Memory} {a : Nat} (x : Nat), m.wf = true → a + bs.length ≤ Config.memSize →
    Memory.get (Memory.setBytes m a bs) x = if a ≤ x then bs.getD (x - a) (Memory.get m x) else Memory.get m x
  | [], _, _, x, _, _ => by simp [Memory.setBytes]
  | v :: rest, m, a, x, hm, ha => by
    simp only [List.length_cons] at ha
    rw [Memory.setBytes, get_setBytes x (set_keeps_wf v hm (by omega)) (by omega), get_set hm]
    by_cases hx : x = a
    · subst hx
      simp
    · by_cases h : a ≤ x
      · have h1 : a + 1 ≤ x := by omega
        have h2 : x - a = (x - (a + 1)) + 1 := by omega
        simp [hx, h, h1, h2]
      · have h1 : ¬ a + 1 ≤ x := by omega
        simp [hx, h, h1]

/-- A byte outside the run is as before. -/
theorem get_setBytes_outside {bs : List Byte} {m : Memory} {a : Nat} (x : Nat) (hm : m.wf = true)
    (ha : a + bs.length ≤ Config.memSize) (hx : x < a ∨ a + bs.length ≤ x) :
    Memory.get (Memory.setBytes m a bs) x = Memory.get m x := by
  rw [get_setBytes x hm ha]
  split
  · rw [List.getD_eq_default _ _ (by omega)]
  · rfl

/-- A run of writes in two parts: the order of R44. -/
theorem setBytes_append : ∀ (bs cs : List Byte) (m : Memory) (a : Nat),
    Memory.setBytes m a (bs ++ cs) = Memory.setBytes (Memory.setBytes m a bs) (a + bs.length) cs
  | [], _, _, _ => rfl
  | v :: rest, cs, m, a => by
    rw [List.cons_append, Memory.setBytes, Memory.setBytes, setBytes_append rest cs, List.length_cons,
      show a + 1 + rest.length = a + (rest.length + 1) by omega]

/-- The last write of a run (R44). -/
theorem setBytes_concat (bs : List Byte) (v : Byte) (m : Memory) (a : Nat) :
    Memory.setBytes m a (bs ++ [v]) = Memory.set (Memory.setBytes m a bs) (a + bs.length) v := setBytes_append bs [v] m a

/-! ### Reads -/

/-- The two bytes of a fetch (R102), where they exist (R47). -/
theorem fetchBytes_eq (m : Memory) (a : Nat) :
    fetchBytes m a = if a + 2 ≤ 0x1000 then [Memory.get m a, Memory.get m (a + 1)] else [] := by
  by_cases h : a + 2 ≤ 0x1000 <;> simp [fetchBytes, memReadBytes, Config.instrBytes, Config.memSize, List.range_succ, h]

/-- `MemRead(addr, 2)` (R8, R42, R47). -/
theorem memReadWord_eq (m : Memory) (a : Nat) :
    memReadWord m a = if a + 2 ≤ 0x1000 then some (wordOfBytes (Memory.get m a) (Memory.get m (a + 1))) else none := by
  by_cases h : a + 2 ≤ 0x1000 <;> simp [memReadWord, memReadBytes, Config.memSize, List.range_succ, h]

/-- `DecodeAt` reads exactly the two bytes at its address (R45, R109). -/
theorem decodeAt_eq (m : Memory) (a : Nat) :
    decodeAt m a = if a + 2 ≤ 0x1000 then decodeWord a (wordOfBytes (Memory.get m a) (Memory.get m (a + 1))) else none := by
  rw [decodeAt, memReadWord_eq]
  split <;> rfl

end Sys2Proof.Machine
end

