-- ==== Sys2Proof/Laws/State.lean ====
section
/-! SUPPORT. One lemma per field of `State` per named update, so that no later proof unfolds a record update, and the
values of the reset state (spec/10_state.md R33). -/

namespace Sys2Proof.Machine

/-! ### `turn` -/

@[simp] theorem turn_memory (s : State) (r : Request) (rest : List Request) : (s.turn r rest).memory = s.memory := rfl

@[simp] theorem turn_loadedLength (s : State) (r : Request) (rest : List Request) : (s.turn r rest).loadedLength = s.loadedLength := rfl

@[simp] theorem turn_pc (s : State) (r : Request) (rest : List Request) : (s.turn r rest).pc = s.pc := rfl

@[simp] theorem turn_phase (s : State) (r : Request) (rest : List Request) : (s.turn r rest).phase = s.phase := rfl

@[simp] theorem turn_out (s : State) (r : Request) (rest : List Request) : (s.turn r rest).out = s.out := rfl

@[simp] theorem turn_reply (s : State) (r : Request) (rest : List Request) : (s.turn r rest).reply = s.reply := rfl

@[simp] theorem turn_requests (s : State) (r : Request) (rest : List Request) : (s.turn r rest).requests = rest := rfl

@[simp] theorem turn_driver (s : State) (r : Request) (rest : List Request) : (s.turn r rest).driver = driverAfter s r := rfl

@[simp] theorem turn_freeCount (s : State) (r : Request) (rest : List Request) : (s.turn r rest).freeCount = s.freeCount := rfl

/-- Asking about the block's own cursor settles the driver's next move (R244). -/
theorem driverAfter_isEnd_pc (s : State) :
    driverAfter s (.isEnd s.pc.toNat) = if isEnd s s.pc.toNat then .ended else .decodes := if_pos rfl

/-- The driver decodes next only after the answer false about `pc`. -/
theorem driverAfter_decodes {s : State} {r : Request} (h : driverAfter s r = .decodes) : isEnd s s.pc.toNat = false := by
  unfold driverAfter at h
  split at h
  · split at h
    · rename_i hc
      subst hc
      split at h
      · cases h
      · exact Bool.eq_false_iff.mpr ‹_›
    · cases h
  all_goals cases h

/-- The driver terminates with status zero only after the answer true about `pc`. -/
theorem driverAfter_ended {s : State} {r : Request} (h : driverAfter s r = .ended) : isEnd s s.pc.toNat = true := by
  unfold driverAfter at h
  split at h
  · split at h
    · rename_i hc
      subst hc
      split at h
      · assumption
      · cases h
    · cases h
  all_goals cases h

/-! ### `answer` -/

@[simp] theorem answer_memory (s : State) (r : Reply) : (s.answer r).memory = s.memory := rfl

@[simp] theorem answer_loadedLength (s : State) (r : Reply) : (s.answer r).loadedLength = s.loadedLength := rfl

@[simp] theorem answer_pc (s : State) (r : Reply) : (s.answer r).pc = s.pc := rfl

@[simp] theorem answer_phase (s : State) (r : Reply) : (s.answer r).phase = s.phase := rfl

@[simp] theorem answer_out (s : State) (r : Reply) : (s.answer r).out = s.out := rfl

@[simp] theorem answer_reply (s : State) (r : Reply) : (s.answer r).reply = r := rfl

@[simp] theorem answer_requests (s : State) (r : Reply) : (s.answer r).requests = s.requests := rfl

@[simp] theorem answer_driver (s : State) (r : Reply) : (s.answer r).driver = s.driver := rfl

@[simp] theorem answer_freeCount (s : State) (r : Reply) : (s.answer r).freeCount = s.freeCount := rfl

/-! ### `useFree` -/

@[simp] theorem useFree_memory (s : State) (n : Nat) : (s.useFree n).memory = s.memory := rfl

@[simp] theorem useFree_loadedLength (s : State) (n : Nat) : (s.useFree n).loadedLength = s.loadedLength := rfl

@[simp] theorem useFree_pc (s : State) (n : Nat) : (s.useFree n).pc = s.pc := rfl

@[simp] theorem useFree_phase (s : State) (n : Nat) : (s.useFree n).phase = s.phase := rfl

@[simp] theorem useFree_out (s : State) (n : Nat) : (s.useFree n).out = s.out := rfl

@[simp] theorem useFree_reply (s : State) (n : Nat) : (s.useFree n).reply = s.reply := rfl

@[simp] theorem useFree_requests (s : State) (n : Nat) : (s.useFree n).requests = s.requests := rfl

@[simp] theorem useFree_driver (s : State) (n : Nat) : (s.useFree n).driver = s.driver := rfl

@[simp] theorem useFree_freeCount (s : State) (n : Nat) : (s.useFree n).freeCount = s.freeCount + n := rfl

/-! ### `withMemory` -/

@[simp] theorem withMemory_memory (s : State) (m : Memory) : (s.withMemory m).memory = m := rfl

@[simp] theorem withMemory_loadedLength (s : State) (m : Memory) : (s.withMemory m).loadedLength = s.loadedLength := rfl

@[simp] theorem withMemory_pc (s : State) (m : Memory) : (s.withMemory m).pc = s.pc := rfl

@[simp] theorem withMemory_phase (s : State) (m : Memory) : (s.withMemory m).phase = s.phase := rfl

@[simp] theorem withMemory_out (s : State) (m : Memory) : (s.withMemory m).out = s.out := rfl

@[simp] theorem withMemory_reply (s : State) (m : Memory) : (s.withMemory m).reply = s.reply := rfl

@[simp] theorem withMemory_requests (s : State) (m : Memory) : (s.withMemory m).requests = s.requests := rfl

@[simp] theorem withMemory_driver (s : State) (m : Memory) : (s.withMemory m).driver = s.driver := rfl

@[simp] theorem withMemory_freeCount (s : State) (m : Memory) : (s.withMemory m).freeCount = s.freeCount := rfl

/-! ### `emitted` -/

@[simp] theorem emitted_memory (s : State) (l : Line) : (s.emitted l).memory = s.memory := rfl

@[simp] theorem emitted_loadedLength (s : State) (l : Line) : (s.emitted l).loadedLength = s.loadedLength := rfl

@[simp] theorem emitted_pc (s : State) (l : Line) : (s.emitted l).pc = s.pc + 2#16 := rfl

/-- The advance as a number, where it does not wrap (R22, R23). -/
theorem emitted_pc_toNat {s : State} (l : Line) (h : s.pc.toNat < 0x1000) : (s.emitted l).pc.toNat = s.pc.toNat + 2 := by
  rw [emitted_pc, BitVec.toNat_add]
  exact Nat.mod_eq_of_lt (show s.pc.toNat + 2 < 2 ^ 16 by omega)

@[simp] theorem emitted_phase (s : State) (l : Line) : (s.emitted l).phase = s.phase := rfl

@[simp] theorem emitted_out (s : State) (l : Line) : (s.emitted l).out = s.out ++ [l] := rfl

@[simp] theorem emitted_reply (s : State) (l : Line) : (s.emitted l).reply = .line l := rfl

@[simp] theorem emitted_requests (s : State) (l : Line) : (s.emitted l).requests = s.requests := rfl

@[simp] theorem emitted_driver (s : State) (l : Line) : (s.emitted l).driver = s.driver := rfl

@[simp] theorem emitted_freeCount (s : State) (l : Line) : (s.emitted l).freeCount = s.freeCount := rfl

/-! ### `loadedWith` -/

@[simp] theorem loadedWith_memory (s : State) (m : Memory) (n : Nat) : (s.loadedWith m n).memory = m := rfl

@[simp] theorem loadedWith_loadedLength (s : State) (m : Memory) (n : Nat) : (s.loadedWith m n).loadedLength = BitVec.ofNat 16 n := rfl

/-- The length of an accepted image as a number (R24). -/
theorem loadedWith_loadedLength_toNat (s : State) (m : Memory) {n : Nat} (h : n ≤ 0xE00) :
    (s.loadedWith m n).loadedLength.toNat = n := by
  rw [loadedWith_loadedLength, BitVec.toNat_ofNat]
  exact Nat.mod_eq_of_lt (show n < 2 ^ 16 by omega)

@[simp] theorem loadedWith_pc (s : State) (m : Memory) (n : Nat) : (s.loadedWith m n).pc = s.pc := rfl

@[simp] theorem loadedWith_phase (s : State) (m : Memory) (n : Nat) : (s.loadedWith m n).phase = .loaded := rfl

@[simp] theorem loadedWith_out (s : State) (m : Memory) (n : Nat) : (s.loadedWith m n).out = s.out := rfl

@[simp] theorem loadedWith_reply (s : State) (m : Memory) (n : Nat) : (s.loadedWith m n).reply = .success := rfl

@[simp] theorem loadedWith_requests (s : State) (m : Memory) (n : Nat) : (s.loadedWith m n).requests = s.requests := rfl

@[simp] theorem loadedWith_driver (s : State) (m : Memory) (n : Nat) : (s.loadedWith m n).driver = s.driver := rfl

@[simp] theorem loadedWith_freeCount (s : State) (m : Memory) (n : Nat) : (s.loadedWith m n).freeCount = s.freeCount := rfl

/-! ### `initialized` -/

@[simp] theorem initialized_memory (s : State) : (s.initialized).memory = [] := rfl

@[simp] theorem initialized_loadedLength (s : State) : (s.initialized).loadedLength = 0x0000#16 := rfl

@[simp] theorem initialized_pc (s : State) : (s.initialized).pc = 0x0200#16 := rfl

@[simp] theorem initialized_phase (s : State) : (s.initialized).phase = .empty := rfl

@[simp] theorem initialized_out (s : State) : (s.initialized).out = [] := rfl

@[simp] theorem initialized_reply (s : State) : (s.initialized).reply = .nothing := rfl

@[simp] theorem initialized_requests (s : State) : (s.initialized).requests = s.requests := rfl

@[simp] theorem initialized_driver (s : State) : (s.initialized).driver = s.driver := rfl

@[simp] theorem initialized_freeCount (s : State) : (s.initialized).freeCount = s.freeCount := rfl

/-! ### `raiseError` -/

@[simp] theorem raiseError_memory (s : State) (k : ErrorKind) : (raiseError k s).memory = s.memory := rfl

@[simp] theorem raiseError_loadedLength (s : State) (k : ErrorKind) : (raiseError k s).loadedLength = s.loadedLength := rfl

@[simp] theorem raiseError_pc (s : State) (k : ErrorKind) : (raiseError k s).pc = s.pc := rfl

@[simp] theorem raiseError_phase (s : State) (k : ErrorKind) : (raiseError k s).phase = .failed := rfl

@[simp] theorem raiseError_out (s : State) (k : ErrorKind) : (raiseError k s).out = s.out := rfl

@[simp] theorem raiseError_reply (s : State) (k : ErrorKind) : (raiseError k s).reply = .error { kind := k, message := Config.freeMessage s.freeCount } := rfl

@[simp] theorem raiseError_requests (s : State) (k : ErrorKind) : (raiseError k s).requests = s.requests := rfl

@[simp] theorem raiseError_driver (s : State) (k : ErrorKind) : (raiseError k s).driver = s.driver := rfl

@[simp] theorem raiseError_freeCount (s : State) (k : ErrorKind) : (raiseError k s).freeCount = s.freeCount + 1 := rfl

/-! ### The reset state -/

@[simp] theorem reset_memory : State.reset.memory = [] := rfl

@[simp] theorem reset_loadedLength : State.reset.loadedLength = 0x0000#16 := rfl

@[simp] theorem reset_pc : State.reset.pc = 0x0200#16 := rfl

@[simp] theorem reset_phase : State.reset.phase = .empty := rfl

@[simp] theorem reset_out : State.reset.out = [] := rfl

@[simp] theorem reset_reply : State.reset.reply = .nothing := rfl

@[simp] theorem reset_requests : State.reset.requests = [] := rfl

@[simp] theorem reset_driver : State.reset.driver = .asks := rfl

@[simp] theorem reset_freeCount : State.reset.freeCount = 0 := rfl

end Sys2Proof.Machine
end

