-- ==== Sys2Proof/Laws/Ops.lean ====
section
/-! SUPPORT. What each shared operation can do, said once: the emission of a line, the meaning of any instruction, the
four operations of the block, and the step. -/

namespace Sys2Proof.Machine

/-! ### Emitting a line -/

/-- A line is emitted exactly where the cursor has a three-digit text (R109). -/
theorem emit_eq (e : Entry) (w : Word) (s : State) :
    emit e w s = if s.pc.toNat < 0x1000 then .next (s.emitted (formatLine (mkRecord s.pc.toNat w e)))
      else .refused (.addressOutOfRange s.pc.toNat) := by
  rw [emit, lineOf_eq]
  by_cases h : s.pc.toNat < 0x1000 <;> simp [h]

/-- Every meaning is the emission of its own entry's line for its own word. -/
theorem exec_eq_emit (i : Instr) (s : State) : exec i s = emit i.entry (encode i) s := by cases i <;> rfl

/-- What any instruction does when it answers a next state. -/
theorem exec_next {i : Instr} {s t : State} (h : exec i s = .next t) :
    s.pc.toNat < 0x1000 ∧ t = s.emitted (formatLine (mkRecord s.pc.toNat (encode i) i.entry)) := by
  rw [exec_eq_emit, emit_eq] at h
  by_cases hpc : s.pc.toNat < 0x1000
  · rw [if_pos hpc] at h
    cases h
    exact ⟨hpc, rfl⟩
  · rw [if_neg hpc] at h
    cases h

/-- Every instruction completes where the cursor is an address of `memory`. -/
theorem exec_completes (i : Instr) {s : State} (h : s.pc.toNat < 0x1000) :
    exec i s = .next (s.emitted (formatLine (mkRecord s.pc.toNat (encode i) i.entry))) := by
  rw [exec_eq_emit, emit_eq, if_pos h]

/-! ### The phase check -/

theorem requirePhase_admitted {op : OpName} {s : State} (h : admits s.phase op = true) (k : Outcome) :
    requirePhase op s k = k := by rw [requirePhase, if_pos h]

theorem requirePhase_refused {op : OpName} {s : State} (h : admits s.phase op = false) (k : Outcome) :
    requirePhase op s k = .refused (.notAdmitted op s.phase) := by
  rw [requirePhase, if_neg (by rw [h]; decide)]

/-- The phase that admits `load` (R25). -/
theorem admits_load {p : Phase} (h : admits p .load = true) : p = .empty := by
  cases p <;> first | rfl | cases h

/-- The phases that admit `is_end` (R25). -/
theorem admits_isEnd {p : Phase} (h : admits p .isEnd = true) : p = .empty ∨ p = .loaded := by
  cases p <;> first | exact .inl rfl | exact .inr rfl | cases h

/-- The phases that admit `decode_step` (R25). -/
theorem admits_decodeStep {p : Phase} (h : admits p .decodeStep = true) : p = .empty ∨ p = .loaded := by
  cases p <;> first | exact .inl rfl | exact .inr rfl | cases h

/-- An operation that answers a next state was admitted. -/
theorem requirePhase_next {op : OpName} {s t : State} {k : Outcome} (h : requirePhase op s k = .next t) :
    admits s.phase op = true ∧ k = .next t := by
  by_cases ha : admits s.phase op = true
  · exact ⟨ha, by rwa [requirePhase_admitted ha] at h⟩
  · rw [requirePhase, if_neg ha] at h
    cases h

/-! ### `load` -/

/-- The odd-length policy in force accepts every length (R248). -/
theorem loadImage_eq (bs : List Byte) (s : State) :
    loadImage bs s = .next (s.loadedWith (Memory.setBytes s.memory 0x200 bs) bs.length) := by
  unfold loadImage
  cases decide (bs.length % 2 = 1) <;> rfl

theorem loadSource_short_over {s : State} {got : List Byte} {lack : Nat} (h : 0xE00 < got.length + lack + 1) :
    loadSource s (.short got lack) = .next (raiseError .capacity s) := if_pos h

theorem loadSource_short {s : State} {got : List Byte} {lack : Nat} (h : got.length + lack + 1 ≤ 0xE00) :
    loadSource s (.short got lack) = .next (raiseError .io (scrambled (got.length + lack + 1) s)) :=
  if_neg (Nat.not_lt.mpr h)

theorem loadSource_bytes_over {s : State} {bs : List Byte} (h : 0xE00 < bs.length) :
    loadSource s (.bytes bs) = .next (raiseError .capacity s) := if_pos h

theorem loadSource_bytes {s : State} {bs : List Byte} (h : bs.length ≤ 0xE00) :
    loadSource s (.bytes bs) = .next (s.loadedWith (Memory.setBytes s.memory 0x200 bs) bs.length) :=
  (if_neg (Nat.not_lt.mpr h)).trans (loadImage_eq bs s)

/-- Everything an admitted `load` can do with its source (R92, R214): an error, or a whole image. -/
theorem loadSource_cases (s : State) (src : Source) :
    (src = .openFail ∧ loadSource s src = .next (raiseError .io s))
    ∨ loadSource s src = .next (raiseError .capacity s)
    ∨ (∃ got lack, src = .short got lack ∧ got.length + lack + 1 ≤ 0xE00
        ∧ loadSource s src = .next (raiseError .io (scrambled (got.length + lack + 1) s)))
    ∨ (∃ bs, src = .bytes bs ∧ bs.length ≤ 0xE00
        ∧ loadSource s src = .next (s.loadedWith (Memory.setBytes s.memory 0x200 bs) bs.length)) := by
  cases src with
  | openFail => exact .inl ⟨rfl, rfl⟩
  | short got lack =>
    by_cases h : 0xE00 < got.length + lack + 1
    · exact .inr (.inl (loadSource_short_over h))
    · exact .inr (.inr (.inl ⟨got, lack, rfl, by omega, loadSource_short (by omega)⟩))
  | bytes bs =>
    by_cases h : 0xE00 < bs.length
    · exact .inr (.inl (loadSource_bytes_over h))
    · exact .inr (.inr (.inr ⟨bs, rfl, by omega, loadSource_bytes (by omega)⟩))

/-! ### `decode_step` -/

/-- The end predicate on naturals (R94). -/
theorem isEnd_eq (s : State) (cursor : Nat) : isEnd s cursor = decide (0x200 + s.loadedLength.toNat ≤ cursor) := rfl

theorem isEnd_iff (s : State) (cursor : Nat) : isEnd s cursor = true ↔ 0x200 + s.loadedLength.toNat ≤ cursor := by
  rw [isEnd_eq, decide_eq_true_iff]

/-- The fetch and the dispatch of a performed step: the word at the cursor, decoded, is run (R100). -/
theorem decodeAtCursor_eq (s : State) :
    decodeAtCursor s =
      if s.pc.toNat + 2 ≤ 0x1000 then
        exec (decode (wordOfBytes (Memory.get s.memory s.pc.toNat) (Memory.get s.memory (s.pc.toNat + 1)))) s
      else .refused (.addressOutOfRange s.pc.toNat) := by
  rw [decodeAtCursor, fetchBytes_eq]
  by_cases h : s.pc.toNat + 2 ≤ 0x1000 <;> simp only [h, if_true, if_false, decodeBytes]

/-- Everything `decode_step` can do when it answers a next state (R100, R101). -/
theorem decodeStep_next {s t : State} (h : decodeStep s = .next t) :
    admits s.phase .decodeStep = true ∧
    ((isEnd s s.pc.toNat = true ∧ t = s.answer .noLine)
    ∨ (isEnd s s.pc.toNat = false ∧ s.pc.toNat + 2 ≤ 0x1000 ∧
        exec (decode (wordOfBytes (Memory.get s.memory s.pc.toNat) (Memory.get s.memory (s.pc.toNat + 1)))) s = .next t)) := by
  obtain ⟨ha, h⟩ := requirePhase_next h
  refine ⟨ha, ?_⟩
  by_cases he : isEnd s s.pc.toNat = true
  · rw [if_pos he] at h
    cases h
    exact .inl ⟨he, rfl⟩
  · rw [if_neg he, decodeAtCursor_eq] at h
    split at h
    · exact .inr ⟨by simpa using he, ‹_›, h⟩
    · cases h

/-! ### The step -/

/-- Which request a step performs, and from which state: the oldest waiting one, else the driver's own move; else the run
is over. -/
theorem step_next {s t : State} (h : step s = .next t) :
    (∃ r rest, s.requests = r :: rest ∧ perform r (s.turn r rest) = .next t)
    ∨ (∃ r, s.requests = [] ∧ driverMove s = some r ∧ perform r (s.turn r []) = .next t)
    ∨ (s.requests = [] ∧ driverMove s = none ∧ s.phase ≠ .failed ∧ t = s) := by
  unfold step advance at h
  split at h
  · exact .inl ⟨_, _, ‹_›, h⟩
  · split at h
    · exact .inr (.inl ⟨_, ‹_›, ‹_›, h⟩)
    · unfold runOver at h
      split at h
      · cases h
      · cases h
        exact .inr (.inr ⟨‹_›, ‹_›, ‹_›, rfl⟩)

/-- A waiting request is performed first. -/
theorem step_request {s : State} {r : Request} {rest : List Request} (h : s.requests = r :: rest) :
    step s = perform r (s.turn r rest) := by
  unfold step advance
  rw [h]

/-- With no request waiting the driver makes its own move. -/
theorem step_driver {s : State} {r : Request} (h : s.requests = []) (hr : driverMove s = some r) :
    step s = perform r (s.turn r []) := by
  unfold step advance
  rw [h, hr]

/-- With no request waiting and no move of the driver the run is over. -/
theorem step_over {s : State} (h : s.requests = []) (hr : driverMove s = none) : step s = runOver s := by
  unfold step advance
  rw [h, hr]

/-- When the driver makes no move of its own (R244). -/
theorem driverMove_none {s : State} :
    driverMove s = none ↔ s.phase = .failed ∨ ((s.phase = .empty ∨ s.phase = .loaded) ∧ s.driver = .ended) := by
  unfold driverMove
  cases s.phase <;> cases s.driver <;> simp

/-- Every move of the driver's own (R244). -/
theorem driverMove_some {s : State} {r : Request} (h : driverMove s = some r) :
    (s.phase = .uninit ∧ r = .init)
    ∨ ((s.phase = .empty ∨ s.phase = .loaded) ∧ s.driver = .asks ∧ r = .isEnd s.pc.toNat)
    ∨ ((s.phase = .empty ∨ s.phase = .loaded) ∧ s.driver = .decodes ∧ r = .decodeStep) := by
  unfold driverMove at h
  cases hp : s.phase <;> cases hd : s.driver <;> rw [hp, hd] at h <;> cases h <;> simp

end Sys2Proof.Machine
end

