-- ==== Sys2Proof/Laws/Lines.lean ====
section
/-! SUPPORT. From the text of an entry to its completion statement: what is left to show of `Prints` is the part of the
line from the mnemonic on (spec/47_line_format.md R190, R201). -/

namespace Sys2Proof.Machine

/-- A line from its columns is its head, its tail and the line feed (R190). -/
theorem lineText_eq (address : Nat) (w : Word) (tail : Text) :
    lineText address w tail = lineHead address w ++ tail ++ ['\n'] := by
  simp [lineText, lineHead, spaces, List.replicate]

/-- An instruction prints the tail its operand list gives. -/
theorem prints_of_tail {i : Instr} {tail : Text} (h : lineTail i.entry (operands i.entry (fields (encode i))) = tail) :
    Prints i (encode i) tail := by
  intro s hs
  rw [exec_completes i (by omega), lineText_eq, ← h]
  rfl

end Sys2Proof.Machine
end

