-- ==== Sys2Proof/Laws/PerInstr.lean ====
section
/-! SUPPORT. The per-instruction family `RowMatch`: the word the encoder gives an instruction matches the row of the
opcode map that the instruction belongs to (spec/30_encoding.md R66: `w & mask = match`), whatever its operands. -/

namespace Sys2Proof.Laws

/-! ### Masks by fields -/

theorem nibble_and_ones (a : Nibble) : a &&& 0xF#4 = a := BitVec.and_allOnes

theorem byte_and_ones (k : Byte) : k &&& 0xFF#8 = k := BitVec.and_allOnes

theorem addr_and_ones (x : Addr) : x &&& 0xFFF#12 = x := BitVec.and_allOnes

/-- The mask `0xF000` keeps `a`. -/
theorem and_mask_a (a : Nibble) (x : Addr) : (a ++ x : Word) &&& 0xF000#16 = a ++ 0x000#12 := by
  rw [show (0xF000#16 : Word) = 0xF#4 ++ 0x000#12 from rfl]
  exact BitVec.and_append.trans (by rw [nibble_and_ones, BitVec.and_zero])

/-- The mask `0xF0FF` keeps `a` and `kk`. -/
theorem and_mask_a_kk (a b : Nibble) (k : Byte) : (a ++ (b ++ k) : Word) &&& 0xF0FF#16 = a ++ (0x0#4 ++ k) := by
  have low : (b ++ k : Addr) &&& (0x0#4 ++ 0xFF#8) = 0x0#4 ++ k :=
    BitVec.and_append.trans (by rw [byte_and_ones, BitVec.and_zero])
  rw [show (0xF0FF#16 : Word) = 0xF#4 ++ (0x0#4 ++ 0xFF#8 : Addr) from rfl]
  exact BitVec.and_append.trans (by rw [low, nibble_and_ones])

/-- The mask `0xF00F` keeps `a` and `d`. -/
theorem and_mask_a_d (a b c d : Nibble) :
    (a ++ (b ++ (c ++ d)) : Word) &&& 0xF00F#16 = a ++ (0x0#4 ++ (0x0#4 ++ d)) := by
  have low : (c ++ d : Byte) &&& (0x0#4 ++ 0xF#4) = 0x0#4 ++ d :=
    BitVec.and_append.trans (by rw [nibble_and_ones, BitVec.and_zero])
  have mid : (b ++ (c ++ d) : Addr) &&& (0x0#4 ++ (0x0#4 ++ 0xF#4 : Byte)) = 0x0#4 ++ (0x0#4 ++ d) :=
    BitVec.and_append.trans (by rw [low, BitVec.and_zero])
  rw [show (0xF00F#16 : Word) = 0xF#4 ++ (0x0#4 ++ (0x0#4 ++ 0xF#4 : Byte) : Addr) from rfl]
  exact BitVec.and_append.trans (by rw [mid, nibble_and_ones])

/-! ### The family -/

namespace RowMatch

/-- The instruction's word matches its own row of R66. -/
def Statement (i : Instr) : Prop := encode i &&& i.entry.row.mask = i.entry.row.code

theorem sys (nnn : Addr) : Statement (.sys nnn) := and_mask_a 0x0#4 nnn

theorem cls : Statement .cls := rfl

theorem ret : Statement .ret := rfl

theorem jpAddr (nnn : Addr) : Statement (.jpAddr nnn) := and_mask_a 0x1#4 nnn

theorem call (nnn : Addr) : Statement (.call nnn) := and_mask_a 0x2#4 nnn

theorem seByte (b : Nibble) (kk : Byte) : Statement (.seByte b kk) := and_mask_a 0x3#4 (b ++ kk)

theorem sneByte (b : Nibble) (kk : Byte) : Statement (.sneByte b kk) := and_mask_a 0x4#4 (b ++ kk)

theorem seReg (b : Nibble) (c : Nibble) (d : Nibble) : Statement (.seReg b c d) := and_mask_a 0x5#4 (b ++ (c ++ d))

theorem ldByte (b : Nibble) (kk : Byte) : Statement (.ldByte b kk) := and_mask_a 0x6#4 (b ++ kk)

theorem addByte (b : Nibble) (kk : Byte) : Statement (.addByte b kk) := and_mask_a 0x7#4 (b ++ kk)

theorem ldReg (b : Nibble) (c : Nibble) : Statement (.ldReg b c) := and_mask_a_d 0x8#4 b c 0x0#4

theorem orReg (b : Nibble) (c : Nibble) : Statement (.orReg b c) := and_mask_a_d 0x8#4 b c 0x1#4

theorem andReg (b : Nibble) (c : Nibble) : Statement (.andReg b c) := and_mask_a_d 0x8#4 b c 0x2#4

theorem xorReg (b : Nibble) (c : Nibble) : Statement (.xorReg b c) := and_mask_a_d 0x8#4 b c 0x3#4

theorem addReg (b : Nibble) (c : Nibble) : Statement (.addReg b c) := and_mask_a_d 0x8#4 b c 0x4#4

theorem sub (b : Nibble) (c : Nibble) : Statement (.sub b c) := and_mask_a_d 0x8#4 b c 0x5#4

theorem shr (b : Nibble) (c : Nibble) : Statement (.shr b c) := and_mask_a_d 0x8#4 b c 0x6#4

theorem subn (b : Nibble) (c : Nibble) : Statement (.subn b c) := and_mask_a_d 0x8#4 b c 0x7#4

theorem shl (b : Nibble) (c : Nibble) : Statement (.shl b c) := and_mask_a_d 0x8#4 b c 0xE#4

theorem unk8 (b : Nibble) (c : Nibble) (d : Nibble) : Statement (.unk8 b c d) := and_mask_a 0x8#4 (b ++ (c ++ d))

theorem sneReg (b : Nibble) (c : Nibble) (d : Nibble) : Statement (.sneReg b c d) := and_mask_a 0x9#4 (b ++ (c ++ d))

theorem ldI (nnn : Addr) : Statement (.ldI nnn) := and_mask_a 0xA#4 nnn

theorem jpV0 (nnn : Addr) : Statement (.jpV0 nnn) := and_mask_a 0xB#4 nnn

theorem rnd (b : Nibble) (kk : Byte) : Statement (.rnd b kk) := and_mask_a 0xC#4 (b ++ kk)

theorem drw (b : Nibble) (c : Nibble) (d : Nibble) : Statement (.drw b c d) := and_mask_a 0xD#4 (b ++ (c ++ d))

theorem skp (b : Nibble) : Statement (.skp b) := and_mask_a_kk 0xE#4 b 0x9E#8

theorem sknp (b : Nibble) : Statement (.sknp b) := and_mask_a_kk 0xE#4 b 0xA1#8

theorem unkE (b : Nibble) (kk : Byte) : Statement (.unkE b kk) := and_mask_a 0xE#4 (b ++ kk)

theorem ldVxDT (b : Nibble) : Statement (.ldVxDT b) := and_mask_a_kk 0xF#4 b 0x07#8

theorem ldVxK (b : Nibble) : Statement (.ldVxK b) := and_mask_a_kk 0xF#4 b 0x0A#8

theorem ldDTVx (b : Nibble) : Statement (.ldDTVx b) := and_mask_a_kk 0xF#4 b 0x15#8

theorem ldSTVx (b : Nibble) : Statement (.ldSTVx b) := and_mask_a_kk 0xF#4 b 0x18#8

theorem addIVx (b : Nibble) : Statement (.addIVx b) := and_mask_a_kk 0xF#4 b 0x1E#8

theorem ldFVx (b : Nibble) : Statement (.ldFVx b) := and_mask_a_kk 0xF#4 b 0x29#8

theorem ldBVx (b : Nibble) : Statement (.ldBVx b) := and_mask_a_kk 0xF#4 b 0x33#8

theorem ldMIVx (b : Nibble) : Statement (.ldMIVx b) := and_mask_a_kk 0xF#4 b 0x55#8

theorem ldVxMI (b : Nibble) : Statement (.ldVxMI b) := and_mask_a_kk 0xF#4 b 0x65#8

theorem unkF (b : Nibble) (kk : Byte) : Statement (.unkF b kk) := and_mask_a 0xF#4 (b ++ kk)

end RowMatch

end Sys2Proof.Laws
end

