-- ==== Sys2Proof/Laws/Step.lean ====
section
/-! SUPPORT. Everything one step can do, said once: an invariant of the step is a case analysis of `step_cases`. -/

namespace Sys2Proof.Machine

open Sys2Proof.Laws

/-- A step that decodes is `decode_step` after the driver's turn is taken. -/
theorem step_decodes {s : State} {rest : List Request} (h : DecodesNext s rest) :
    step s = decodeStep (s.turn .decodeStep rest) := by
  obtain ⟨hp, h | ⟨h, rfl, hd⟩⟩ := h
  · exact step_request h
  · exact step_driver (r := .decodeStep) h (by rcases hp with hp | hp <;> simp [driverMove, hp, hd])

/-- A `decode_step` at the end of the loaded region (R101). -/
theorem decodeStep_at_end {s : State} (hp : s.phase = .empty ∨ s.phase = .loaded) (h : isEnd s s.pc.toNat = true) :
    decodeStep s = .next (s.answer .noLine) := by
  rw [decodeStep, requirePhase_admitted (by rcases hp with hp | hp <;> rw [hp] <;> rfl), if_pos h]

/-- A `decode_step` before the end (R100). -/
theorem decodeStep_before_end {s : State} (hp : s.phase = .empty ∨ s.phase = .loaded)
    (h : isEnd s s.pc.toNat = false) : decodeStep s = decodeAtCursor s := by
  rw [decodeStep, requirePhase_admitted (by rcases hp with hp | hp <;> rw [hp] <;> rfl), if_neg (by simp [h])]

/-- A step that decodes before the end fetches and runs the word at the cursor (R100). -/
theorem step_decodes_before_end {s : State} {rest : List Request} (h : DecodesNext s rest)
    (he : isEnd s s.pc.toNat = false) : step s = decodeAtCursor (s.turn .decodeStep rest) := by
  rw [step_decodes h]
  exact decodeStep_before_end (s := s.turn .decodeStep rest) h.1 he

/-- Before the end of a consistent state the whole word at the cursor is in `memory` (R22, R102). -/
theorem Consistent.word_in_memory {s : State} (h : Consistent s) (he : isEnd s s.pc.toNat = false) :
    s.pc.toNat + 2 ≤ 0x1000 := by
  have := h.cursor
  have := h.lengthBound
  have : ¬ (0x200 + s.loadedLength.toNat ≤ s.pc.toNat) := by
    rw [← isEnd_iff]
    simp [he]
  omega

/-- A consistent state with nothing loaded is as `initialize` left it (R24, R25). -/
theorem Consistent.empty_values {s : State} (c : Consistent s) (hp : s.phase = .empty) :
    s.loadedLength = 0 ∧ s.out = [] ∧ s.pc = 0x0200#16 ∧ ∀ a, Memory.get s.memory a = 0 := by
  have hl := c.unloaded (.inl hp)
  have hb := c.cursorBound
  have hc := c.cursor
  have ho : s.out = [] := by
    rw [hl] at hb
    simp at hb
    exact List.length_eq_zero_iff.mp (by omega)
  refine ⟨hl, ho, BitVec.eq_of_toNat_eq (by rw [hc, ho]; rfl), fun a => ?_⟩
  by_cases h : a < 0x200
  · exact c.lowZero a h
  · exact c.tailZero (by rw [hp]; simp) a (by rw [hl]; simp; omega)

/-- An admitted `load` does what its source says (R92). -/
theorem step_load {s : State} {src : Source} {rest : List Request} (hp : s.phase = .empty)
    (hr : s.requests = .load src :: rest) : step s = loadSource (s.turn (.load src) rest) src := by
  rw [step_request hr, perform, load, requirePhase_admitted (by simp [hp, admits])]

/-- Everything a step can do when it answers a next state: `initialize`, a `decode_step` at the end or before it, an
`is_end` question, a `load`, or nothing after the driver has terminated. -/
theorem step_cases {s t : State} (h : step s = .next t) :
    (∃ rest, (s.requests = .init :: rest ∨ (s.phase = .uninit ∧ s.requests = [] ∧ rest = []))
        ∧ t = (s.turn .init rest).initialized)
    ∨ (∃ rest, DecodesNext s rest ∧ isEnd s s.pc.toNat = true ∧ t = (s.turn .decodeStep rest).answer .noLine)
    ∨ (∃ rest, DecodesNext s rest ∧ isEnd s s.pc.toNat = false ∧ s.pc.toNat + 2 ≤ 0x1000
        ∧ exec (decode (wordOfBytes (Memory.get s.memory s.pc.toNat) (Memory.get s.memory (s.pc.toNat + 1))))
            (s.turn .decodeStep rest) = .next t)
    ∨ (∃ c rest, (s.requests = .isEnd c :: rest ∨ (s.requests = [] ∧ rest = [] ∧ s.driver = .asks ∧ c = s.pc.toNat))
        ∧ (s.phase = .empty ∨ s.phase = .loaded) ∧ t = (s.turn (.isEnd c) rest).answer (.ended (isEnd s c)))
    ∨ (∃ src rest, s.requests = .load src :: rest ∧ s.phase = .empty
        ∧ loadSource (s.turn (.load src) rest) src = .next t)
    ∨ (s.requests = [] ∧ (s.phase = .empty ∨ s.phase = .loaded) ∧ s.driver = .ended ∧ t = s) := by
  have decoding : ∀ rest, DecodesNext s rest → decodeStep (s.turn .decodeStep rest) = .next t →
      (∃ rest, DecodesNext s rest ∧ isEnd s s.pc.toNat = true ∧ t = (s.turn .decodeStep rest).answer .noLine)
      ∨ (∃ rest, DecodesNext s rest ∧ isEnd s s.pc.toNat = false ∧ s.pc.toNat + 2 ≤ 0x1000
          ∧ exec (decode (wordOfBytes (Memory.get s.memory s.pc.toNat) (Memory.get s.memory (s.pc.toNat + 1))))
              (s.turn .decodeStep rest) = .next t) := by
    intro rest hd h
    rcases (decodeStep_next h).2 with ⟨he, rfl⟩ | ⟨he, hpc, h⟩
    · exact .inl ⟨rest, hd, he, rfl⟩
    · exact .inr ⟨rest, hd, he, hpc, h⟩
  rcases step_next h with ⟨r, rest, hr, h⟩ | ⟨r, hr, hm, h⟩ | ⟨hr, hm, hf, rfl⟩
  · cases r with
    | init =>
      cases h
      exact .inl ⟨rest, .inl hr, rfl⟩
    | load src =>
      obtain ⟨ha, h⟩ := requirePhase_next h
      exact .inr (.inr (.inr (.inr (.inl ⟨src, rest, hr, admits_load ha, h⟩))))
    | isEnd c =>
      obtain ⟨ha, h⟩ := requirePhase_next h
      cases h
      exact .inr (.inr (.inr (.inl ⟨c, rest, .inl hr, admits_isEnd ha, rfl⟩)))
    | decodeStep =>
      have hp := admits_decodeStep (decodeStep_next h).1
      rcases decoding rest ⟨hp, .inl hr⟩ h with h | h
      · exact .inr (.inl h)
      · exact .inr (.inr (.inl h))
  · rcases driverMove_some hm with ⟨hp, rfl⟩ | ⟨hp, hd, rfl⟩ | ⟨hp, hd, rfl⟩
    · cases h
      exact .inl ⟨[], .inr ⟨hp, hr, rfl⟩, rfl⟩
    · obtain ⟨_, h⟩ := requirePhase_next h
      cases h
      exact .inr (.inr (.inr (.inl ⟨_, [], .inr ⟨hr, rfl, hd, rfl⟩, hp, rfl⟩)))
    · rcases decoding [] ⟨hp, .inr ⟨hr, rfl, hd⟩⟩ h with h | h
      · exact .inr (.inl h)
      · exact .inr (.inr (.inl h))
  · rcases driverMove_none.mp hm with hp | ⟨hp, hd⟩
    · exact absurd hp hf
    · exact .inr (.inr (.inr (.inr (.inr ⟨hr, hp, hd, rfl⟩))))

end Sys2Proof.Machine
end

