-- ==== Sys2Proof/Tests/Slice0.lean ====
section
/-! SUPPORT. Tests of one operation each, their expected results taken from spec/95_test_vectors.md, and for every
obligation with hypotheses the states and operands that meet them (`witness_…`), at the boundaries of their ranges. -/

namespace Sys2Proof.Tests

open Sys2Proof Sys2Proof.Machine

/-! ### States -/

/-- A field of the next state, where there is one. -/
def after {α : Type} (f : State → α) : Outcome → Option α
  | .next t => some (f t)
  | .fault _ => none
  | .refused _ => none

/-- The kind of the error returned, where one is. -/
def errorKind (s : State) : Option ErrorKind :=
  match s.reply with
  | .error e => some e.kind
  | .nothing | .success | .ended _ | .line _ | .noLine => none

/-- Nothing loaded, one request waiting. -/
def asked (p : Phase) (r : Request) : State := { State.reset with phase := p, requests := [r] }

/-- A two-byte program before its only step, the end predicate just answered false (vector BO5). -/
def sprite (rs : List Request) : State :=
  { State.reset with memory := [(0x200, 0xD1#8), (0x201, 0x2F#8)], loadedLength := 2#16, phase := .loaded, requests := rs, driver := .decodes }

/-- An image of `n` zero bytes after `k` decode steps. -/
def zeros (n k : Nat) (rs : List Request) : State :=
  { State.reset with
    loadedLength := BitVec.ofNat 16 n
    pc := BitVec.ofNat 16 (0x200 + 2 * k)
    phase := .loaded
    out := (List.range k).map fun j => (decodeAt [] (0x200 + 2 * j)).getD []
    requests := rs }

theorem zeros_length {n : Nat} (k : Nat) (rs : List Request) (hn : n ≤ 0xE00) : (zeros n k rs).loadedLength.toNat = n := by
  simp [zeros]
  omega

theorem zeros_pc (n : Nat) {k : Nat} (rs : List Request) (hk : 2 * k ≤ 0xE01) : (zeros n k rs).pc.toNat = 0x200 + 2 * k := by
  simp [zeros]
  omega

theorem zeros_consistent {n k : Nat} (rs : List Request) (hn : n ≤ 0xE00) (hk : 2 * k ≤ n + 1) : Consistent (zeros n k rs) where
  memoryWf := rfl
  lengthBound := by rw [zeros_length k rs hn]; exact hn
  cursor := by rw [zeros_pc n rs (by omega)]; simp [zeros]
  cursorBound := by rw [zeros_pc n rs (by omega), zeros_length k rs hn]; omega
  unloaded h := by simp [zeros] at h
  lowZero _ _ := rfl
  tailZero _ _ _ := rfl
  lines j hj := by
    have hj : j < k := by simpa [zeros] using hj
    show ((List.range k).map _)[j]? = decodeAt [] (0x200 + 2 * j)
    rw [List.getElem?_map, List.getElem?_range hj, decodeAt_eq, if_pos (by omega), decodeWord, lineOf_eq, if_pos (by omega)]
    simp only [Option.map_some]
    rw [decodeAt_eq, if_pos (by omega), decodeWord, lineOf_eq, if_pos (by omega)]
    rfl
  decodes h := by cases h
  ended h := by cases h

theorem zeros_end {n k : Nat} (rs : List Request) (hn : n ≤ 0xE00) (hk : 2 * k ≤ n + 1) :
    isEnd (zeros n k rs) (zeros n k rs).pc.toNat = decide (n ≤ 2 * k) := by
  rw [isEnd, loadedEnd, zeros_pc n rs (by omega), zeros_length k rs hn, Config.loadOrigin]
  exact decide_eq_decide.mpr (by omega)

theorem asked_empty_consistent (r : Request) : Consistent (asked .empty r) where
  memoryWf := rfl
  lengthBound := show (0 : Nat) ≤ 0xE00 by decide
  cursor := rfl
  cursorBound := show (0x200 : Nat) ≤ 0x200 + 0 + 1 by decide
  unloaded _ := rfl
  lowZero _ _ := rfl
  tailZero _ _ _ := rfl
  lines k hk := by cases hk
  decodes h := by cases h
  ended h := by cases h

theorem sprite_consistent (rs : List Request) : Consistent (sprite rs) where
  memoryWf := rfl
  lengthBound := show (2 : Nat) ≤ 0xE00 by decide
  cursor := rfl
  cursorBound := show (0x200 : Nat) ≤ 0x200 + 2 + 1 by decide
  unloaded h := by simp [sprite] at h
  lowZero a ha := by
    show Memory.get [(0x200, 0xD1#8), (0x201, 0x2F#8)] a = 0
    rw [Memory.get, if_neg (by omega), Memory.get, if_neg (by omega), Memory.get]
    rfl
  tailZero _ a ha := by
    have ha : 0x200 + 2 ≤ a := ha
    show Memory.get [(0x200, 0xD1#8), (0x201, 0x2F#8)] a = 0
    rw [Memory.get, if_neg (by omega), Memory.get, if_neg (by omega), Memory.get]
    rfl
  lines k hk := by cases hk
  decodes _ := show decide ((0x202 : Nat) ≤ 0x200) = false by decide
  ended h := by cases h

/-! ### Well-formedness -/

/-- A fall-back row does not take a word that a defined row of its family takes (R66, priority). -/
theorem test_ill_formed_refused :
    Instr.wf (.sys 0x0E0#12) = false ∧ Instr.wf (.sys 0x0EE#12) = false
    ∧ (∀ d ∈ [0x0#4, 0x1#4, 0x2#4, 0x3#4, 0x4#4, 0x5#4, 0x6#4, 0x7#4, 0xE#4], Instr.wf (.unk8 0xA#4 0xB#4 d) = false)
    ∧ (∀ kk ∈ [0x9E#8, 0xA1#8], Instr.wf (.unkE 0x1#4 kk) = false)
    ∧ (∀ kk ∈ [0x07#8, 0x0A#8, 0x15#8, 0x18#8, 0x1E#8, 0x29#8, 0x33#8, 0x55#8, 0x65#8], Instr.wf (.unkF 0x1#4 kk) = false) := by
  decide

/-! ### Each entry: the word, the instruction it decodes to, and its line -/

/-- Vector T0-4. -/
theorem test_sys : decode 0x0123#16 = .sys 0x123#12
    ∧ decodeWord 0x200 0x0123#16 = some "@200     0x0123    SYS     @123\n".toList := by decide

/-- Vector T0-1. -/
theorem test_cls : decode 0x00E0#16 = .cls
    ∧ decodeWord 0x200 0x00E0#16 = some "@200     0x00e0    CLS\n".toList := by decide

/-- Vector T0-2. -/
theorem test_ret : decode 0x00EE#16 = .ret
    ∧ decodeWord 0x204 0x00EE#16 = some "@204     0x00ee    RET\n".toList := by decide

/-- Vector TP-2. -/
theorem test_jpAddr : decode 0x1ABC#16 = .jpAddr 0xABC#12
    ∧ decodeWord 0x200 0x1ABC#16 = some "@200     0x1abc    JP      @abc\n".toList := by decide

/-- Vector TP-5. -/
theorem test_call : decode 0x2206#16 = .call 0x206#12
    ∧ decodeWord 0x200 0x2206#16 = some "@200     0x2206    CALL    @206\n".toList := by decide

/-- Vector TP-8. -/
theorem test_seByte : decode 0x3A00#16 = .seByte 0xA#4 0x00#8
    ∧ decodeWord 0x200 0x3A00#16 = some "@200     0x3a00    SE      VA 0x00\n".toList := by decide

/-- Vector TP-12. -/
theorem test_sneByte : decode 0x4105#16 = .sneByte 0x1#4 0x05#8
    ∧ decodeWord 0x200 0x4105#16 = some "@200     0x4105    SNE     V1 0x05\n".toList := by decide

/-- Vector TP-15. -/
theorem test_seReg : decode 0x5ABF#16 = .seReg 0xA#4 0xB#4 0xF#4
    ∧ decodeWord 0x200 0x5ABF#16 = some "@200     0x5abf    SE      VA VB\n".toList := by decide

/-- Vector TP-20. -/
theorem test_ldByte : decode 0x6A3B#16 = .ldByte 0xA#4 0x3B#8
    ∧ decodeWord 0x202 0x6A3B#16 = some "@202     0x6a3b    LD      VA 0x3b\n".toList := by decide

/-- Vector TP-24. -/
theorem test_addByte : decode 0x7101#16 = .addByte 0x1#4 0x01#8
    ∧ decodeWord 0x200 0x7101#16 = some "@200     0x7101    ADD     V1 0x01\n".toList := by decide

/-- Vector T8-1. -/
theorem test_ldReg : decode 0x8AB0#16 = .ldReg 0xA#4 0xB#4
    ∧ decodeWord 0x200 0x8AB0#16 = some "@200     0x8ab0    LD      VA VB\n".toList := by decide

/-- Vector T8-2. -/
theorem test_orReg : decode 0x8AB1#16 = .orReg 0xA#4 0xB#4
    ∧ decodeWord 0x202 0x8AB1#16 = some "@202     0x8ab1    OR      VA VB\n".toList := by decide

/-- Vector T8-3. -/
theorem test_andReg : decode 0x8AB2#16 = .andReg 0xA#4 0xB#4
    ∧ decodeWord 0x204 0x8AB2#16 = some "@204     0x8ab2    AND     VA VB\n".toList := by decide

/-- Vector T8-4. -/
theorem test_xorReg : decode 0x8AB3#16 = .xorReg 0xA#4 0xB#4
    ∧ decodeWord 0x206 0x8AB3#16 = some "@206     0x8ab3    XOR     VA VB\n".toList := by decide

/-- Vector T8-5. -/
theorem test_addReg : decode 0x8AB4#16 = .addReg 0xA#4 0xB#4
    ∧ decodeWord 0x208 0x8AB4#16 = some "@208     0x8ab4    ADD     VA VB\n".toList := by decide

/-- Vector T8-6. -/
theorem test_sub : decode 0x8AB5#16 = .sub 0xA#4 0xB#4
    ∧ decodeWord 0x20A 0x8AB5#16 = some "@20a     0x8ab5    SUB     VA VB\n".toList := by decide

/-- Vector T8-7. -/
theorem test_shr : decode 0x8AB6#16 = .shr 0xA#4 0xB#4
    ∧ decodeWord 0x20C 0x8AB6#16 = some "@20c     0x8ab6    SHR     VA VB\n".toList := by decide

/-- Vector T8-8. -/
theorem test_subn : decode 0x8AB7#16 = .subn 0xA#4 0xB#4
    ∧ decodeWord 0x20E 0x8AB7#16 = some "@20e     0x8ab7    SUBN    VA VB\n".toList := by decide

/-- Vector T8-15. -/
theorem test_shl : decode 0x8ABE#16 = .shl 0xA#4 0xB#4
    ∧ decodeWord 0x21C 0x8ABE#16 = some "@21c     0x8abe    SHL     VA VB\n".toList := by decide

/-- Vector T8-10. -/
theorem test_unk8 : decode 0x8AB9#16 = .unk8 0xA#4 0xB#4 0x9#4
    ∧ decodeWord 0x212 0x8AB9#16 = some "@212     0x8ab9    ???     VA VB\n".toList := by decide

/-- Vector TP-28. -/
theorem test_sneReg : decode 0x912C#16 = .sneReg 0x1#4 0x2#4 0xC#4
    ∧ decodeWord 0x200 0x912C#16 = some "@200     0x912c    SNE     V1 V2\n".toList := by decide

/-- Vector TP-31. -/
theorem test_ldI : decode 0xA20A#16 = .ldI 0x20A#12
    ∧ decodeWord 0x204 0xA20A#16 = some "@204     0xa20a    LD      I @20a\n".toList := by decide

/-- Vector TP-34. -/
theorem test_jpV0 : decode 0xB300#16 = .jpV0 0x300#12
    ∧ decodeWord 0x200 0xB300#16 = some "@200     0xb300    JP      V0 @300\n".toList := by decide

/-- Vector TP-37. -/
theorem test_rnd : decode 0xC30F#16 = .rnd 0x3#4 0x0F#8
    ∧ decodeWord 0x200 0xC30F#16 = some "@200     0xc30f    RND     V3 0x0f\n".toList := by decide

/-- Vector TP-41. -/
theorem test_drw : decode 0xDABC#16 = .drw 0xA#4 0xB#4 0xC#4
    ∧ decodeWord 0x200 0xDABC#16 = some "@200     0xdabc    DRW     VA VB 0xc\n".toList := by decide

/-- Vector TE-1. -/
theorem test_skp : decode 0xE09E#16 = .skp 0x0#4
    ∧ decodeWord 0x200 0xE09E#16 = some "@200     0xe09e    SKP     V0\n".toList := by decide

/-- Vector TE-4. -/
theorem test_sknp : decode 0xE0A1#16 = .sknp 0x0#4
    ∧ decodeWord 0x200 0xE0A1#16 = some "@200     0xe0a1    SKNP    V0\n".toList := by decide

/-- Vector TE-6. -/
theorem test_unkE : decode 0xE09D#16 = .unkE 0x0#4 0x9D#8
    ∧ decodeWord 0x200 0xE09D#16 = some "@200     0xe09d    ???     0x9d\n".toList := by decide

/-- Vector TF-1. -/
theorem test_ldVxDT : decode 0xF107#16 = .ldVxDT 0x1#4
    ∧ decodeWord 0x200 0xF107#16 = some "@200     0xf107    LD      V1 DT\n".toList := by decide

/-- Vector TF-2. -/
theorem test_ldVxK : decode 0xF10A#16 = .ldVxK 0x1#4
    ∧ decodeWord 0x200 0xF10A#16 = some "@200     0xf10a    LD      V1 K\n".toList := by decide

/-- Vector TF-3. -/
theorem test_ldDTVx : decode 0xF115#16 = .ldDTVx 0x1#4
    ∧ decodeWord 0x200 0xF115#16 = some "@200     0xf115    LD      DT V1\n".toList := by decide

/-- Vector TF-4. -/
theorem test_ldSTVx : decode 0xF118#16 = .ldSTVx 0x1#4
    ∧ decodeWord 0x200 0xF118#16 = some "@200     0xf118    LD      ST V1\n".toList := by decide

/-- Vector TF-13. -/
theorem test_addIVx : decode 0xFA1E#16 = .addIVx 0xA#4
    ∧ decodeWord 0x200 0xFA1E#16 = some "@200     0xfa1e    ADD     I VA\n".toList := by decide

/-- Vector TF-6. -/
theorem test_ldFVx : decode 0xF129#16 = .ldFVx 0x1#4
    ∧ decodeWord 0x200 0xF129#16 = some "@200     0xf129    LD      F V1\n".toList := by decide

/-- Vector TF-7. -/
theorem test_ldBVx : decode 0xF133#16 = .ldBVx 0x1#4
    ∧ decodeWord 0x200 0xF133#16 = some "@200     0xf133    LD      B V1\n".toList := by decide

/-- Vector TF-8. -/
theorem test_ldMIVx : decode 0xF155#16 = .ldMIVx 0x1#4
    ∧ decodeWord 0x200 0xF155#16 = some "@200     0xf155    LD      [I] V1\n".toList := by decide

/-- Vector TF-9. -/
theorem test_ldVxMI : decode 0xF165#16 = .ldVxMI 0x1#4
    ∧ decodeWord 0x200 0xF165#16 = some "@200     0xf165    LD      V1 [I]\n".toList := by decide

/-- Vector TF-16. -/
theorem test_unkF : decode 0xF106#16 = .unkF 0x1#4 0x06#8
    ∧ decodeWord 0x200 0xF106#16 = some "@200     0xf106    ???     0x06\n".toList := by decide
/-! ### Fields, bytes and the host's placement -/

/-- Vectors FX7 and FX8: the byte order is visible in the fields. -/
theorem test_byte_order :
    fields (wordOfBytes 0x12#8 0x34#8) = ⟨0x1#4, 0x2#4, 0x3#4, 0x4#4, 0x34#8, 0x234#12⟩
    ∧ fields (wordOfBytes 0x34#8 0x12#8) = ⟨0x3#4, 0x4#4, 0x1#4, 0x2#4, 0x12#8, 0x412#12⟩ := by decide

/-- A word numbered as the opcode table numbers it decodes to its row (rows 16 and 36). -/
theorem test_table_word : decodeTableWord 16 0x8AB6 = some (.shr 0xA#4 0xB#4) ∧ decodeTableWord 16 0xF165 = some (.ldVxMI 0x1#4) := by
  decide

/-- The placed word is fetched and decoded by the very next step. -/
theorem test_placed_word :
    after State.out (step (State.reset.withFetchWord 16 0xDABC)) = some ["@200     0xdabc    DRW     VA VB 0xc\n".toList] := by
  decide

/-- The word is refused where it is not wholly inside `memory` (R47), and a truncated byte sequence by the decoder. -/
theorem test_out_of_range : memReadWord [] 0xFFE = some 0x0000#16 ∧ memReadWord [] 0xFFF = none ∧ decodeWord 0x1000 0x00E0#16 = none
    ∧ decodeBytes [0x00#8] = .error .truncated := ⟨by decide, by decide, by decide, rfl⟩

/-! ### Operations (vectors BO) -/

/-- Vectors BO2 and BO3: nothing is loaded, so the end predicate holds and a decode step returns nothing. -/
theorem test_empty_decode_step : isEnd State.reset 0x200 = true
    ∧ after (fun t => (t.pc, t.out, t.reply)) (step (asked .empty .decodeStep)) = some (0x0200#16, [], .noLine) := by decide

/-- Vector BO5. -/
theorem test_load : after (fun t => (t.memory, t.loadedLength, t.pc, t.phase, t.reply)) (step (asked .empty (.load (.bytes [0xD1#8, 0x2F#8]))))
    = some ([(0x200, 0xD1#8), (0x201, 0x2F#8)], 2#16, 0x0200#16, .loaded, .success) := by decide

/-- The driver's loop (R244): it asks first, decodes after the answer false, asks again, and terminates on the answer true. -/
theorem test_driver_loop :
    after State.driver (step { sprite [] with driver := .asks }) = some .decodes
    ∧ after (fun t => (t.driver, t.pc, t.out.length)) (step (sprite [])) = some (.asks, 0x0202#16, 1)
    ∧ after (fun t => (t.driver, t.reply)) (step { sprite [] with driver := .asks, pc := 0x0202#16 }) = some (.ended, .ended true)
    ∧ after State.driver (step (sprite [.isEnd 0x200])) = some .decodes
    ∧ after State.driver (step (sprite [.isEnd 0x202])) = some .asks := by decide

/-- Vector BO6. -/
theorem test_is_end : after State.reply (step (sprite [.isEnd 0x201])) = some (.ended false)
    ∧ after State.reply (step (sprite [.isEnd 0x202])) = some (.ended true) := by decide

/-- Vector BO7. -/
theorem test_decode_step : after (fun t => (t.pc, t.out)) (step (sprite [.decodeStep]))
    = some (0x0202#16, ["@200     0xd12f    DRW     V1 V2 0xf\n".toList]) := by decide

/-- Vector BO11: no source. -/
theorem test_load_open_fail :
    after (fun t => (errorKind t, t.memory, t.phase)) (step (asked .empty (.load .openFail))) = some (some .io, [], .failed) := by
  decide

/-- Vector BO13: an oversized source that is also short gives the capacity error, and nothing is read. -/
theorem test_load_oversized :
    after (fun t => (errorKind t, t.memory, t.phase)) (step (asked .empty (.load (.short [] 3999)))) = some (some .capacity, [], .failed) := by
  rw [step_load rfl rfl, loadSource_short_over (by decide)]
  decide

/-- Vector BO12: a short read of 4 bytes out of 10. -/
theorem test_short_read :
    after (fun t => (errorKind t, t.loadedLength, t.pc, t.phase))
      (step (asked .empty (.load (.short [0x01#8, 0x02#8, 0x03#8, 0x04#8] 5)))) = some (some .io, 0#16, 0x0200#16, .failed) := by
  decide

/-- Vector BO14: everything but `initialize` is refused after a failed load. -/
theorem test_refused_after_failure :
    step (asked .failed .decodeStep) = .refused (.notAdmitted .decodeStep .failed)
    ∧ step (asked .failed (.isEnd 0x200)) = .refused (.notAdmitted .isEnd .failed)
    ∧ step (asked .failed (.load .openFail)) = .refused (.notAdmitted .load .failed) := ⟨rfl, rfl, rfl⟩

/-- Vectors BO15 and BO1: `initialize` leads out of a failed phase. -/
theorem test_reinitialize :
    let s : State := { sprite [.init] with phase := .failed, out := [['\n']] }
    after (fun t => (t.memory, t.loadedLength, t.pc, t.phase)) (step s) = some ([], 0#16, 0x0200#16, .empty)
    ∧ after State.out (step s) = some [] := by decide

/-- Vectors BO16 and BO17. -/
theorem test_refused_out_of_order :
    step (sprite [.load (.bytes [])]) = .refused (.notAdmitted .load .loaded)
    ∧ step (asked .uninit .decodeStep) = .refused (.notAdmitted .decodeStep .uninit) := ⟨rfl, rfl⟩

/-- Vector BO18: the end predicate of an image of three bytes. -/
theorem test_odd_end : (isEnd (zeros 3 0 []) 0x202, isEnd (zeros 3 0 []) 0x203, isEnd (zeros 3 0 []) 0x204) = (false, true, true) := by
  decide

/-- Storing 0x00 removes the entry, and a stored byte has its place in the order. -/
theorem test_memory_canonical :
    Memory.set [(0x200, 0x01#8), (0x202, 0x02#8)] 0x202 0x00#8 = [(0x200, 0x01#8)]
    ∧ Memory.set [(0x200, 0x01#8), (0x202, 0x02#8)] 0x201 0x03#8 = [(0x200, 0x01#8), (0x201, 0x03#8), (0x202, 0x02#8)] := by
  decide

/-! ### Witnesses of the hypotheses: encodings and lines -/

/-- O1: a defined row and every fall-back row beside its selectors. -/
theorem witness_DecodeOfEncodeIsTheInstruction :
    Instr.wf .cls = true ∧ Instr.wf (.sys 0x0E1#12) = true ∧ Instr.wf (.unk8 0xF#4 0x0#4 0x8#4) = true
    ∧ Instr.wf (.unkE 0x0#4 0x9F#8) = true ∧ Instr.wf (.unkF 0xF#4 0x66#8) = true := by decide

/-- O4: each clause at the ends of its range. -/
theorem witness_DispatchFollowsItsTwoLevels :
    (∀ a ∈ [0x1, 0x2, 0x3, 0x4, 0x5, 0x6, 0x7, 0x9, 0xA, 0xB, 0xC, 0xD],
        (BitVec.ofNat 16 (a * 0x1000)).toNat / 0x1000 = a ∧ (BitVec.ofNat 16 (a * 0x1000 + 0xFFF)).toNat / 0x1000 = a)
    ∧ (∀ nnn ∈ [0x0E0, 0x0EE, 0x000, 0x0DF, 0x0E1, 0x0ED, 0x0EF, 0x1E0, 0xFFF],
        (BitVec.ofNat 16 nnn).toNat / 0x1000 = 0 ∧ (BitVec.ofNat 16 nnn).toNat % 0x1000 = nnn)
    ∧ (∀ d ∈ List.range 16, (BitVec.ofNat 16 (0x8AB0 + d)).toNat / 0x1000 = 8 ∧ (BitVec.ofNat 16 (0x8AB0 + d)).toNat % 0x10 = d)
    ∧ (∀ kk ∈ [0x9E, 0xA1, 0x9D, 0x9F, 0xA0, 0xA2, 0x00, 0xFF],
        (BitVec.ofNat 16 (0xE100 + kk)).toNat / 0x1000 = 0xE ∧ (BitVec.ofNat 16 (0xE100 + kk)).toNat % 0x100 = kk)
    ∧ (∀ kk ∈ [0x07, 0x0A, 0x15, 0x18, 0x1E, 0x29, 0x33, 0x55, 0x65, 0x00, 0x06, 0x66, 0xFF],
        (BitVec.ofNat 16 (0xF100 + kk)).toNat / 0x1000 = 0xF ∧ (BitVec.ofNat 16 (0xF100 + kk)).toNat % 0x100 = kk) := by
  decide

/-- O6, and the hypothesis of `Prints` in O9 to O24: the lowest and the highest cursor. -/
theorem witness_Prints : State.reset.pc.toNat ≤ 0xFFF ∧ ({ State.reset with pc := 0x0FFF#16 } : State).pc.toNat ≤ 0xFFF := by decide

/-- O8: each of the three forms, decoded at the highest address. -/
theorem witness_IgnoredNibblesDoNotReachTheText :
    (0x5AB0#16 = 0x5#4 ++ (0xA#4 ++ (0xB#4 ++ 0x0#4)) ∧ 0x5ABF#16 = 0x5#4 ++ (0xA#4 ++ (0xB#4 ++ 0xF#4))
      ∧ (decodeWord 0xFFF 0x5AB0#16).isSome = true ∧ (decodeWord 0xFFF 0x5ABF#16).isSome = true)
    ∧ (0xE000#16 = 0xE#4 ++ (0x0#4 ++ 0x00#8) ∧ 0xEF00#16 = 0xE#4 ++ (0xF#4 ++ 0x00#8) ∧ dispatch 0xE000#16 = .UNK_E
      ∧ (decodeWord 0xFFF 0xE000#16).isSome = true ∧ (decodeWord 0xFFF 0xEF00#16).isSome = true)
    ∧ (0xF0FF#16 = 0xF#4 ++ (0x0#4 ++ 0xFF#8) ∧ 0xFFFF#16 = 0xF#4 ++ (0xF#4 ++ 0xFF#8) ∧ dispatch 0xF0FF#16 = .UNK_F
      ∧ (decodeWord 0xFFF 0xF0FF#16).isSome = true ∧ (decodeWord 0xFFF 0xFFFF#16).isSome = true) := by decide

/-- O9, O11 and O12: neighbours of the two selectors of family 0. -/
theorem witness_FamilyZero : ∀ nnn ∈ [0x000#12, 0x0DF#12, 0x0E1#12, 0x0ED#12, 0x0EF#12, 0xEE0#12, 0xFFF#12], nnn ≠ 0x0E0#12 ∧ nnn ≠ 0x0EE#12 := by
  simp

/-- O20: the undefined selectors of family 8. -/
theorem witness_FamilyEightUnknownRecordIsNormalOutput :
    0x8#4 ∈ [0x8#4, 0x9#4, 0xA#4, 0xB#4, 0xC#4, 0xD#4, 0xF#4] ∧ 0xF#4 ∈ [0x8#4, 0x9#4, 0xA#4, 0xB#4, 0xC#4, 0xD#4, 0xF#4] := by decide

/-- O22 and O24: bytes beside the selectors. -/
theorem witness_UnknownRecordsCarryTheByte :
    (∀ kk ∈ [0x00#8, 0x9D#8, 0x9F#8, 0xA0#8, 0xA2#8, 0xFF#8], kk ≠ 0x9E#8 ∧ kk ≠ 0xA1#8)
    ∧ (∀ kk ∈ [0x00#8, 0x06#8, 0x0B#8, 0x66#8, 0xFF#8], kk ∉ [0x07#8, 0x0A#8, 0x15#8, 0x18#8, 0x1E#8, 0x29#8, 0x33#8, 0x55#8, 0x65#8]) := by
  decide

/-- O25: an instruction that answers a next state. -/
theorem witness_InstructionFrame : ∃ t, exec (.unk8 0xA#4 0xB#4 0x8#4) State.reset = .next t := ⟨_, rfl⟩

/-- O26: the first and the last of three digits. -/
theorem witness_HexTextDigitByDigit : (0 < 3 ∧ 2 < 3) ∧ hexLc 0xA0F 3 = ['a', '0', 'f'] ∧ hexUc 0xA 1 = ['A'] := by decide

/-- O27, O30, O33 and O34: a line at the lowest and at the highest address, without and with operands. -/
theorem witness_decodeWord : (decodeWord 0 0x00E0#16).isSome = true ∧ (decodeWord 0xFFF 0xDFFF#16).isSome = true
    ∧ (textTable (dispatch 0xDFFF#16)).ops ≠ [] := by decide

/-- O29: each list the statement ranges over has members. -/
theorem witness_TextTableCounts : .LD_Vx_mI ∈ entries ∧ ['?', '?', '?'] ∈ mnemonicTokens := by decide

/-- O31: two decodings that give one line. -/
theorem witness_LineDeterminesAddressAndWord : decodeWord 0xFFE 0x0FFF#16 = some "@ffe     0x0fff    SYS     @fff\n".toList := by decide

/-- O32: equal tails, and unequal ones, of different words: one entry, and the two unknown records. -/
theorem witness_TailIsMnemonicAndOperands :
    (dispatch 0x5AB0#16 = dispatch 0x5ABF#16 ∧ (decodeWord 0x200 0x5AB0#16).map (List.drop 19) = (decodeWord 0x200 0x5ABF#16).map (List.drop 19))
    ∧ (dispatch 0xE1FF#16 = .UNK_E ∧ dispatch 0xF2FF#16 = .UNK_F
      ∧ (decodeWord 0x200 0xE1FF#16).map (List.drop 19) = (decodeWord 0x202 0xF2FF#16).map (List.drop 19)) ∧
    (decodeWord 0x200 0xE1FF#16).map (List.drop 19) = (decodeWord 0x202 0xF2FF#16).map (List.drop 19)
    ∧ (decodeWord 0x200 0xE1FF#16).map (List.drop 19) ≠ (decodeWord 0x200 0xE1FE#16).map (List.drop 19)
    ∧ (decodeWord 0x200 0xE1FF#16).isSome = true ∧ 0xFF#8 ∉ familyESelectors ∧ 0xFF#8 ∉ familyFSelectors := by decide

/-! ### Witnesses of the hypotheses: memory and operations -/

/-- O35: the highest address for one byte, and for two. -/
theorem witness_MemoryReadAfterWrite : Memory.wf [(0x200, 0x01#8)] = true ∧ 0xFFF < 0x1000 ∧ 0xFFE + [0x01#8, 0x00#8].length ≤ 0x1000 := by
  decide

/-- O36: one memory reached by two histories. -/
theorem witness_EqualMemoriesAreEqualData :
    Memory.wf (Memory.set [(0x200, 0x01#8)] 0x201 0x00#8) = true ∧ Memory.wf [(0x200, 0x01#8)] = true
    ∧ ∀ a, Memory.get (Memory.set [(0x200, 0x01#8)] 0x201 0x00#8) a = Memory.get [(0x200, 0x01#8)] a :=
  ⟨by decide, by decide, fun _ => rfl⟩

/-- O37: the request in any phase, and the driver's own first move. -/
theorem witness_InitializeSetsEveryValue :
    (asked .failed .init).requests = .init :: []
    ∧ (({ State.reset with phase := .uninit, pc := 0xFFFF#16 } : State).phase = .uninit ∧ State.reset.requests = []) := by decide

/-- O39: the empty and the largest image. -/
theorem witness_LoadedImagePostcondition :
    Consistent (asked .empty (.load (.bytes []))) ∧ Consistent (asked .empty (.load (.bytes (List.replicate 0xE00 0xFF#8))))
    ∧ (asked .empty (.load (.bytes []))).phase = .empty ∧ (List.replicate 0xE00 0xFF#8).length ≤ 0xE00 :=
  ⟨asked_empty_consistent _, asked_empty_consistent _, rfl, by rw [List.length_replicate]⟩

/-- O40: one byte too many, and exactly the capacity. -/
theorem witness_CapacityErrorCopiesNothing :
    Consistent (asked .empty (.load (.bytes (List.replicate 3585 0xFF#8)))) ∧ (List.replicate 3585 0xFF#8).length > 0xE00
    ∧ (List.replicate 3584 0xFF#8).length = 3584 ∧ (asked .empty (.load .openFail)).phase = .empty :=
  ⟨asked_empty_consistent _, by rw [List.length_replicate]; decide, List.length_replicate, rfl⟩

/-- O41: no source; the shortest and the longest source that can be read short, and a longer one. -/
theorem witness_InputOutputErrors :
    Consistent (asked .empty (.load .openFail)) ∧ (asked .empty (.load .openFail)).requests = .load .openFail :: []
    ∧ Consistent (asked .empty (.load (.short [] 0))) ∧ ([] : List Byte).length + 0 + 1 ≤ 0xE00
    ∧ Consistent (asked .empty (.load (.short [0x01#8] 3582))) ∧ [0x01#8].length + 3582 + 1 ≤ 0xE00
    ∧ Consistent (asked .empty (.load (.short [] 3584))) ∧ ([] : List Byte).length + 3584 + 1 > 0xE00 :=
  ⟨asked_empty_consistent _, rfl, asked_empty_consistent _, by decide, asked_empty_consistent _, by decide,
    asked_empty_consistent _, by decide⟩

/-- O42: a step that fails a load, a failed state with a request, a step that is no load. -/
theorem witness_ErrorsAreReturnedAndSaveNothing :
    (∃ t, step (asked .empty (.load .openFail)) = .next t ∧ (asked .empty (.load .openFail)).phase ≠ .failed ∧ t.phase = .failed)
    ∧ ((asked .failed .decodeStep).phase = .failed ∧ (asked .failed .decodeStep).requests = .decodeStep :: [] ∧ Request.decodeStep ≠ .init)
    ∧ (∃ t, step (sprite [.decodeStep]) = .next t ∧ ∀ src rest, (sprite [.decodeStep]).requests ≠ .load src :: rest) :=
  ⟨⟨_, rfl, by decide, rfl⟩, by decide, _, rfl, by simp [sprite]⟩

/-- O43: both phases that admit the question. -/
theorem witness_EndPredicateIsAnsweredOnly :
    ((asked .empty (.isEnd 0x1FF)).phase = .empty ∧ (asked .empty (.isEnd 0x1FF)).requests = .isEnd 0x1FF :: [])
    ∧ ((sprite [.isEnd 0x202]).phase = .loaded ∧ (sprite [.isEnd 0x202]).requests = .isEnd 0x202 :: []) := by decide

/-- O44: nothing loaded; the largest image at its end. -/
theorem witness_DecodeStepAtTheEndDoesNothing :
    (DecodesNext (asked .empty .decodeStep) []
      ∧ isEnd (asked .empty .decodeStep) (asked .empty .decodeStep).pc.toNat = true)
    ∧ (DecodesNext (zeros 0xE00 0x700 [.decodeStep]) [] ∧ isEnd (zeros 0xE00 0x700 [.decodeStep]) (zeros 0xE00 0x700 [.decodeStep]).pc.toNat = true) :=
  ⟨⟨⟨.inl rfl, .inl rfl⟩, by decide⟩, ⟨.inr rfl, .inl rfl⟩, by rw [zeros_end _ (by decide) (by decide)]; decide⟩

/-- O45: the bytes at the cursor decode to a well-formed instruction. -/
theorem witness_StepRunsTheDecodedInstruction :
    DecodesNext (sprite []) [] ∧ isEnd (sprite []) (sprite []).pc.toNat = false
    ∧ decodeBytes (fetchBytes (sprite []).memory (sprite []).pc.toNat) = .ok (.drw 0x1#4 0x2#4 0xF#4)
    ∧ Instr.wf (.drw 0x1#4 0x2#4 0xF#4) = true := ⟨⟨.inr rfl, .inr ⟨rfl, rfl, rfl⟩⟩, by decide, rfl, by decide⟩

/-- O46 and O47: the first word of an image and the last word of the largest one; a second memory with the same two bytes. -/
theorem witness_FetchReadsTwoBytesBigEndian :
    (Consistent (sprite []) ∧ DecodesNext (sprite []) [] ∧ isEnd (sprite []) (sprite []).pc.toNat = false)
    ∧ (Consistent (zeros 0xE00 0x6FF [.decodeStep]) ∧ DecodesNext (zeros 0xE00 0x6FF [.decodeStep]) []
      ∧ isEnd (zeros 0xE00 0x6FF [.decodeStep]) (zeros 0xE00 0x6FF [.decodeStep]).pc.toNat = false ∧ (zeros 0xE00 0x6FF [.decodeStep]).pc.toNat ≤ 0xFFE)
    ∧ (Memory.get [(0x200, 0xD1#8), (0x201, 0x2F#8), (0x202, 0xFF#8)] 0x200 = Memory.get (sprite []).memory 0x200
      ∧ Memory.get [(0x200, 0xD1#8), (0x201, 0x2F#8), (0x202, 0xFF#8)] 0x201 = Memory.get (sprite []).memory 0x201) :=
  ⟨⟨sprite_consistent _, ⟨.inr rfl, .inr ⟨rfl, rfl, rfl⟩⟩, by decide⟩,
    ⟨zeros_consistent _ (by decide) (by decide), ⟨.inr rfl, .inl rfl⟩, by rw [zeros_end _ (by decide) (by decide)]; decide,
      by rw [zeros_pc _ _ (by decide)]⟩, by decide⟩

/-- O48, O52 and O53: a step of every kind, from a state with the invariant. -/
theorem witness_StepKeepsTheInvariant :
    (Machine.Inv (sprite [.decodeStep]) ∧ ∃ t, step (sprite [.decodeStep]) = .next t)
    ∧ (Machine.Inv (sprite [.isEnd 0x202]) ∧ ∃ t, step (sprite [.isEnd 0x202]) = .next t)
    ∧ (Machine.Inv (sprite [.init]) ∧ ∃ t, step (sprite [.init]) = .next t)
    ∧ (Machine.Inv (asked .empty (.load (.bytes [0x01#8]))) ∧ ∃ t, step (asked .empty (.load (.bytes [0x01#8]))) = .next t)
    ∧ (Machine.Inv (asked .empty (.load .openFail)) ∧ ∃ t, step (asked .empty (.load .openFail)) = .next t) :=
  ⟨⟨fun _ => sprite_consistent _, _, rfl⟩, ⟨fun _ => sprite_consistent _, _, rfl⟩, ⟨fun _ => sprite_consistent _, _, rfl⟩,
    ⟨fun _ => asked_empty_consistent _, _, rfl⟩, fun _ => asked_empty_consistent _, _, rfl⟩

/-- O49: an `initialize`, asked for and the driver's own; a whole image. -/
theorem witness_MemoryIsWrittenOnlyByInitializeAndLoad :
    ((∃ t, step (sprite [.init]) = .next t) ∧ (sprite [.init]).memory.wf = true)
    ∧ ((asked .uninit .init).phase = .uninit ∧ ∃ t, step { asked .uninit .init with requests := [] } = .next t)
    ∧ ((asked .empty (.load (.bytes [0x01#8]))).memory.wf = true ∧ [0x01#8].length ≤ 0xE00
      ∧ ∃ t, step (asked .empty (.load (.bytes [0x01#8]))) = .next t)
    ∧ ((List.replicate 0xE00 0xFF#8).length ≤ 0xE00 ∧ ∃ t, step (asked .empty (.load (.bytes (List.replicate 0xE00 0xFF#8)))) = .next t) :=
  ⟨⟨⟨_, rfl⟩, rfl⟩, ⟨rfl, _, rfl⟩, ⟨rfl, by decide, _, rfl⟩, by rw [List.length_replicate],
    _, (step_load rfl rfl).trans (loadSource_bytes (by rw [List.length_replicate]))⟩

/-- O49, the loads that fail: no source, one byte too many, an oversized short source; the shortest and the longest short read. -/
theorem witness_MemoryIsWrittenOnlyByInitializeAndLoad_failing :
    (∃ t, step (asked .empty (.load .openFail)) = .next t)
    ∧ ((List.replicate 3585 0xFF#8).length > 0xE00 ∧ ∃ t, step (asked .empty (.load (.bytes (List.replicate 3585 0xFF#8)))) = .next t)
    ∧ (([] : List Byte).length + 3584 + 1 > 0xE00 ∧ ∃ t, step (asked .empty (.load (.short [] 3584))) = .next t)
    ∧ (([] : List Byte).length + 0 + 1 ≤ 0xE00 ∧ ∃ t, step (asked .empty (.load (.short [] 0))) = .next t)
    ∧ (([] : List Byte).length + 3583 + 1 ≤ 0xE00 ∧ ∃ t, step (asked .empty (.load (.short [] 3583))) = .next t) :=
  ⟨⟨_, rfl⟩,
    ⟨by rw [List.length_replicate]; decide, _, (step_load rfl rfl).trans (loadSource_bytes_over (by rw [List.length_replicate]; decide))⟩,
    ⟨by decide, _, (step_load rfl rfl).trans (loadSource_short_over (by decide))⟩,
    ⟨by decide, _, (step_load rfl rfl).trans (loadSource_short (by decide))⟩,
    by decide, _, (step_load rfl rfl).trans (loadSource_short (by decide))⟩

/-- O49, the other clauses: a step that is neither, a one-byte write at the highest address, a failed state. -/
theorem witness_MemoryIsWrittenOnlyByInitializeAndLoad_neither :
    ((sprite [.decodeStep]).phase ≠ .uninit ∧ (∃ t, step (sprite [.decodeStep]) = .next t)
      ∧ (∀ rest, (sprite [.decodeStep]).requests ≠ .init :: rest) ∧ ∀ src rest, (sprite [.decodeStep]).requests ≠ .load src :: rest)
    ∧ ((sprite []).memory.wf = true ∧ 0xFFF < 0x1000 ∧ 0xFFE ≠ 0xFFF)
    ∧ ((asked .failed .decodeStep).phase = .failed ∧ (asked .failed .decodeStep).requests = .decodeStep :: [] ∧ Request.decodeStep ≠ .init) :=
  ⟨⟨by decide, ⟨_, rfl⟩, by simp [sprite], by simp [sprite]⟩, by decide, by decide⟩

/-- O50: two states that agree on the cursor and the two bytes and differ in a byte beside them. -/
theorem witness_DecodingDependsOnAddressAndBytesAlone :
    let s := sprite []
    let s' := { s with memory := s.memory ++ [(0x202, 0xFF#8)], loadedLength := 3#16, requests := [.decodeStep] }
    DecodesNext s [] ∧ DecodesNext s' [] ∧ isEnd s s.pc.toNat = false ∧ isEnd s' s'.pc.toNat = false ∧ s.pc = s'.pc
    ∧ Memory.get s.memory s.pc.toNat = Memory.get s'.memory s.pc.toNat
    ∧ Memory.get s.memory (s.pc.toNat + 1) = Memory.get s'.memory (s.pc.toNat + 1)
    ∧ (∃ t, step s = .next t) ∧ ∃ t, step s' = .next t :=
  ⟨⟨.inr rfl, .inr ⟨rfl, rfl, rfl⟩⟩, ⟨.inr rfl, .inl rfl⟩, by decide, by decide, rfl, by decide, by decide, ⟨_, rfl⟩, _, rfl⟩

/-- O51: a state in which the request is refused and one in which it is not. -/
theorem witness_RefusedExactlyOutOfOrder :
    (Machine.Inv (sprite [.load .openFail]) ∧ (sprite [.load .openFail]).requests = .load .openFail :: [])
    ∧ (Machine.Inv (asked .uninit .decodeStep) ∧ (asked .uninit .decodeStep).requests = .decodeStep :: [])
    ∧ (Machine.Inv (sprite [.decodeStep]) ∧ (sprite [.decodeStep]).requests = .decodeStep :: []) :=
  ⟨⟨fun _ => sprite_consistent _, rfl⟩, ⟨fun h => absurd rfl h, rfl⟩, fun _ => sprite_consistent _, rfl⟩

/-- O54: a run about to start, one that asks before it decodes, the driver's own decode, and a failed run at its end; a driver
that does not ask first does not keep the protocol. -/
theorem witness_ProtocolNeverRefused :
    (Machine.Inv { State.reset with phase := .uninit, requests := driverScript (.bytes []) }
      ∧ keepsProtocol ({ State.reset with phase := .uninit, requests := driverScript (.bytes []) } : State).position
          (driverScript (.bytes [])) = true)
    ∧ (Machine.Inv (sprite [.isEnd 0x200, .decodeStep, .isEnd 0x202])
      ∧ keepsProtocol (sprite [.isEnd 0x200, .decodeStep, .isEnd 0x202]).position [.isEnd 0x200, .decodeStep, .isEnd 0x202] = true)
    ∧ (Machine.Inv (sprite []) ∧ keepsProtocol (sprite []).position (sprite []).requests = true ∧ DecodesNext (sprite []) [])
    ∧ (Machine.Inv { asked .failed .init with requests := [] } ∧ keepsProtocol ({ asked .failed .init with requests := [] } : State).position [] = true)
    ∧ keepsProtocol State.reset.position [.load (.bytes [0x00#8, 0xE0#8]), .decodeStep] = false
    ∧ keepsProtocol (sprite []).position [.isEnd 0x200, .decodeStep, .decodeStep] = false :=
  ⟨⟨fun h => absurd rfl h, by decide⟩, ⟨fun _ => sprite_consistent _, by decide⟩,
    ⟨fun _ => sprite_consistent _, rfl, .inr rfl, .inr ⟨rfl, rfl, rfl⟩⟩,
    ⟨fun _ => ⟨rfl, by decide, rfl, by decide, fun _ => rfl, fun _ _ => rfl, fun _ _ _ => rfl,
      fun _ hk => absurd hk (Nat.not_lt_zero _), nofun, nofun⟩, rfl⟩, by decide, by decide⟩

/-- O55: the empty and the largest image. -/
theorem witness_RunPrintsTheWholeImage :
    ([] : List Byte).length ≤ 0xE00 ∧ (List.replicate 0xE00 0xFF#8).length ≤ 0xE00
    ∧ ({ State.reset with requests := driverScript (.bytes []) } : State).requests = driverScript (.bytes []) :=
  ⟨by decide, by rw [List.length_replicate], rfl⟩

/-- O56: the three sources that fail. -/
theorem witness_FailedLoadEndsTheRun :
    Source.accepted .openFail = false ∧ Source.accepted (.short [] 0) = false
    ∧ Source.accepted (.bytes (List.replicate 3585 0x00#8)) = false
    ∧ ({ State.reset with requests := driverScript .openFail } : State).requests = driverScript .openFail :=
  ⟨rfl, rfl, by rw [Source.accepted, List.length_replicate]; decide, rfl⟩

/-- O57: the shortest and the longest odd image, each before its last step. -/
theorem witness_OddImageIsPaddedWithZero :
    (Consistent (zeros 1 0 [.decodeStep]) ∧ DecodesNext (zeros 1 0 [.decodeStep]) [] ∧ (zeros 1 0 [.decodeStep]).loadedLength.toNat = 2 * 0 + 1
      ∧ (zeros 1 0 [.decodeStep]).pc.toNat = 0x200 + 2 * 0)
    ∧ (Consistent (zeros 0xDFF 0x6FF [.decodeStep]) ∧ DecodesNext (zeros 0xDFF 0x6FF [.decodeStep]) []
      ∧ (zeros 0xDFF 0x6FF [.decodeStep]).loadedLength.toNat = 2 * 0x6FF + 1 ∧ (zeros 0xDFF 0x6FF [.decodeStep]).pc.toNat = 0x200 + 2 * 0x6FF) :=
  ⟨⟨zeros_consistent _ (by decide) (by decide), ⟨.inr rfl, .inl rfl⟩, by decide, by decide⟩,
    zeros_consistent _ (by decide) (by decide), ⟨.inr rfl, .inl rfl⟩, zeros_length _ _ (by decide), zeros_pc _ _ (by decide)⟩

/-- O58: the smallest and the largest word, and a cursor at which no word fits. -/
theorem witness_PlacedWordIsTheNextInstruction :
    State.reset.memory.wf = true ∧ 0 < 2 ^ 16 ∧ 0xFFFF < 2 ^ 16 ∧ fetchPlace { State.reset with pc := 0x0FFF#16 } = 0x200 := by decide

/-- O59: each place of the driver, at the first and at the last cursor, and a failed run at its end. -/
theorem witness_DriverRunsItsLoop :
    (({ State.reset with phase := .uninit } : State).phase = .uninit ∧ ({ State.reset with phase := .uninit } : State).requests = [])
    ∧ (State.reset.phase = .empty ∧ State.reset.driver = .asks ∧ State.reset.requests = [])
    ∧ ((sprite []).phase = .loaded ∧ (sprite []).driver = .decodes ∧ Consistent (sprite []) ∧ (sprite []).requests = [])
    ∧ (∃ t, step { sprite [] with driver := .asks, pc := 0x0202#16 } = .next t ∧ t.phase = .loaded ∧ t.driver = .ended ∧ t.requests = [])
    ∧ ({ asked .failed .init with requests := [] } : State).phase = .failed :=
  ⟨by decide, by decide, ⟨rfl, rfl, sprite_consistent _, rfl⟩, ⟨_, rfl, rfl, by decide, rfl⟩, rfl⟩

end Sys2Proof.Tests
end

section
/-! PROOFS. The laws of the byte store (spec/20_memory.md R44, R45), from the lemmas of Sys2Proof/Laws/Memory.lean. -/

namespace Sys2Proof.Machine

/-- Each byte of a run written inside `memory` is read back at its own address (R44, R45). -/
theorem get_setBytes_inside {bs : List Byte} {m : Memory} {a j : Nat} (hm : m.wf = true)
    (ha : a + bs.length ≤ Config.memSize) (hj : j < bs.length) :
    Memory.get (Memory.setBytes m a bs) (a + j) = bs[j] := by
  rw [get_setBytes (a + j) hm ha, if_pos (Nat.le_add_right a j), Nat.add_sub_cancel_left, List.getD_eq_getElem bs _ hj]

/-- Settles O35: the read-after-write lemma for one byte, and for a run the two lemmas on addresses inside and outside it. -/
theorem memoryReadAfterWrite : Obligations.MemoryReadAfterWrite := by
  unfold Obligations.MemoryReadAfterWrite
  intro m a hm
  refine ⟨fun v ha => ⟨set_keeps_wf v hm ha, ?_, fun x hx => ?_⟩,
    fun bs ha => ⟨setBytes_keeps_wf hm ha, fun j hj => ?_, fun x hx => get_setBytes_outside x hm ha hx⟩⟩
  · rw [get_set hm, if_pos rfl]
  · rw [get_set hm, if_neg hx]
  · rw [get_setBytes_inside hm ha hj, List.getElem?_eq_getElem hj]

end Sys2Proof.Machine
end

section
/-! PROOFS. The encoder undoes the dispatch (spec/30_encoding.md R65, R66): one lemma for each family with a second level,
then every word. -/

namespace Sys2Proof.Laws

theorem encode_decodeFamily0 (f : Fields) : encode (decodeFamily0 f) = 0x0#4 ++ f.nnn := by
  unfold decodeFamily0
  split
  next hcls => rw [hcls]; rfl
  next =>
    split
    next hret => rw [hret]; rfl
    next => rfl

/-- A row of family 8 gives back its selector `d`. -/
theorem encode_decodeFamily8 (f : Fields) : encode (decodeFamily8 f) = 0x8#4 ++ (f.b ++ (f.c ++ f.d)) := by
  unfold decodeFamily8
  repeat' split
  all_goals simp only [encode, *]

theorem encode_decodeFamilyE (f : Fields) : encode (decodeFamilyE f) = 0xE#4 ++ (f.b ++ f.kk) := by
  unfold decodeFamilyE
  repeat' split
  all_goals simp only [encode, *]

theorem encode_decodeFamilyF (f : Fields) : encode (decodeFamilyF f) = 0xF#4 ++ (f.b ++ f.kk) := by
  unfold decodeFamilyF
  repeat' split
  all_goals simp only [encode, *]

/-- The first level of the dispatch: each value of `a` selects one arm, for fields that fit together as the extractor's
do (R103). -/
theorem encode_decodeFields {f : Fields} (hnnn : f.nnn = f.b ++ f.kk) (hkk : f.kk = f.c ++ f.d) :
    encode (decodeFields f) = f.a ++ f.nnn := by
  rcases nibble_cases f.a with h | h | h | h | h | h | h | h | h | h | h | h | h | h | h | h <;>
    simp [decodeFields, h, encode_decodeFamily0, encode_decodeFamily8, encode_decodeFamilyE, encode_decodeFamilyF,
      hnnn, hkk] <;>
    rfl

/-- The printed word is the fetched one (R66, R75). -/
theorem encode_decode (w : Word) : encode (decode w) = w :=
  (encode_decodeFields (fields_nnn_eq w) (fields_kk_eq w)).trans (word_eq_append_addr w).symm

end Sys2Proof.Laws
end

section
/-! PROOFS. What a performed decode step and an admitted `load` leave behind, in the terms of the statements: the line is
`DecodeAt` of the cursor (spec/41_fetch_and_fields.md R100, R109), and a source is accepted or ends in an error
(spec/40_buffer_operations.md R92). -/

namespace Sys2Proof.Machine

open Sys2Proof.Laws

/-- Running the word at the cursor, the driver's turn taken, emits the line `DecodeAt` gives there and does nothing else. -/
theorem exec_fetched_next {s t : State} {r : Request} {rest : List Request} (hpc : s.pc.toNat + 2 ≤ 0x1000)
    (h : exec (decode (wordOfBytes (Memory.get s.memory s.pc.toNat) (Memory.get s.memory (s.pc.toNat + 1))))
      (s.turn r rest) = .next t) :
    ∃ l, decodeAt s.memory s.pc.toNat = some l ∧ t = (s.turn r rest).emitted l := by
  obtain ⟨hlt, rfl⟩ := exec_next h
  refine ⟨_, ?_, rfl⟩
  rw [turn_pc] at hlt ⊢
  rw [decodeAt_eq, if_pos hpc, decodeWord, lineOf_eq, if_pos hlt, encode_decode, dispatch]

/-- No byte of `memory` is left open by an error raised before the source is read. -/
theorem scrambled_zero (s : State) : scrambled 0 s = s := rfl

/-- A `load` of a source ends in an error exactly when the source is not accepted, else the whole image is copied. -/
theorem loadSource_next {s t : State} {src : Source} (h : loadSource s src = .next t) :
    (src.accepted = false ∧ ∃ k n, n ≤ 0xE00 ∧ t = raiseError k (scrambled n s))
    ∨ (src.accepted = true ∧ ∃ bs : List Byte, bs.length ≤ 0xE00
        ∧ t = s.loadedWith (Memory.setBytes s.memory 0x200 bs) bs.length) := by
  cases src with
  | openFail =>
    cases h
    exact .inl ⟨rfl, .io, 0, Nat.zero_le _, by rw [scrambled_zero]⟩
  | short got lack =>
    by_cases hn : got.length + lack + 1 ≤ 0xE00
    · cases (loadSource_short hn).symm.trans h
      exact .inl ⟨rfl, .io, _, hn, rfl⟩
    · cases (loadSource_short_over (Nat.lt_of_not_le hn)).symm.trans h
      exact .inl ⟨rfl, .capacity, 0, Nat.zero_le _, by rw [scrambled_zero]⟩
  | bytes bs =>
    by_cases hn : bs.length ≤ 0xE00
    · cases (loadSource_bytes hn).symm.trans h
      exact .inr ⟨decide_eq_true hn, bs, hn, rfl⟩
    · cases (loadSource_bytes_over (Nat.lt_of_not_le hn)).symm.trans h
      exact .inl ⟨decide_eq_false hn, .capacity, 0, Nat.zero_le _, by rw [scrambled_zero]⟩

/-- No `load` moves the cursor or prints (R92, R212). -/
theorem loadSource_next_pc_out {s t : State} {src : Source} (h : loadSource s src = .next t) :
    t.pc = s.pc ∧ t.out = s.out := by
  rcases loadSource_next h with ⟨-, k, n, -, rfl⟩ | ⟨-, bs, -, rfl⟩
  · exact ⟨rfl, rfl⟩
  · exact ⟨rfl, rfl⟩

end Sys2Proof.Machine
end

section
/-! PROOFS. The invariant (spec/10_state.md R22, R24, R25, R27): the request `init` establishes it, and each update of the
state that a step makes keeps it. -/

namespace Sys2Proof.Machine

/-- The request `init` establishes the invariant from any state (R90). -/
theorem initialized_consistent {s : State} (hd : s.driver = .asks) : Consistent s.initialized where
  memoryWf := rfl
  lengthBound := Nat.zero_le _
  cursor := rfl
  cursorBound := Nat.le_succ _
  unloaded _ := rfl
  lowZero _ _ := rfl
  tailZero _ _ _ := rfl
  lines _ hk := absurd hk (Nat.not_lt_zero _)
  decodes h := by simp [hd] at h
  ended h := by simp [hd] at h

/-- The driver's place after taking its turn is true of the cursor (R244). -/
theorem Consistent.turn {s : State} (c : Consistent s) (r : Request) (rest : List Request) :
    Consistent (s.turn r rest) :=
  { c with decodes := driverAfter_decodes, ended := driverAfter_ended }

theorem Consistent.answer {s : State} (c : Consistent s) (r : Reply) : Consistent (s.answer r) := { c with }

/-- A decode step before the end keeps the invariant when the line it emits is `DecodeAt` of the cursor (R27, R107). -/
theorem Consistent.emitted {s : State} {l : Line} (c : Consistent s) (hd : s.driver = .asks)
    (he : isEnd s s.pc.toNat = false) (hl : decodeAt s.memory s.pc.toNat = some l) : Consistent (s.emitted l) := by
  have hword := c.word_in_memory he
  have hpc := emitted_pc_toNat l (show s.pc.toNat < 0x1000 by omega)
  have hcur := c.cursor
  have hbefore : s.pc.toNat < 0x200 + s.loadedLength.toNat := by simpa [isEnd_eq] using he
  exact {
    memoryWf := c.memoryWf
    lengthBound := c.lengthBound
    cursor := by rw [hpc, emitted_out, List.length_append, List.length_singleton]; omega
    cursorBound := by rw [hpc, emitted_loadedLength]; omega
    unloaded := c.unloaded
    lowZero := c.lowZero
    tailZero := c.tailZero
    lines := fun k hk => by
      rw [emitted_out, List.length_append, List.length_singleton] at hk
      rw [emitted_out, emitted_memory]
      by_cases hlast : k = s.out.length
      · rw [hlast, List.getElem?_concat_length, ← hcur, hl]
      · rw [List.getElem?_append_left (by omega), c.lines k (by omega)]
    decodes := fun h => by simp [hd] at h
    ended := fun h => by simp [hd] at h }

/-- What a run of bytes written into an empty buffer keeps: the canonical form, the zeros below the load origin and the
zeros past the run (R41, R44). -/
theorem Consistent.setBytes_zeros {s : State} {bs : List Byte} (c : Consistent s) (hp : s.phase = .empty)
    (hn : bs.length ≤ 0xE00) :
    (Memory.setBytes s.memory 0x200 bs).wf = true
    ∧ ∀ a, a < 0x200 ∨ 0x200 + bs.length ≤ a → Memory.get (Memory.setBytes s.memory 0x200 bs) a = 0 := by
  obtain ⟨-, -, -, hzero⟩ := c.empty_values hp
  have hfit : 0x200 + bs.length ≤ Config.memSize := show _ ≤ 0x1000 by omega
  refine ⟨setBytes_keeps_wf c.memoryWf hfit, fun a ha => ?_⟩
  rw [get_setBytes_outside a c.memoryWf hfit ha, hzero]

/-- A whole image read into an empty buffer keeps the invariant (R92). -/
theorem Consistent.loadedWith {s : State} {bs : List Byte} (c : Consistent s) (hp : s.phase = .empty)
    (hd : s.driver = .asks) (hn : bs.length ≤ 0xE00) :
    Consistent (s.loadedWith (Memory.setBytes s.memory 0x200 bs) bs.length) := by
  obtain ⟨-, hout, hpc, -⟩ := c.empty_values hp
  obtain ⟨hwf, hzeros⟩ := c.setBytes_zeros hp hn
  have hlen := loadedWith_loadedLength_toNat s (Memory.setBytes s.memory 0x200 bs) hn
  exact {
    memoryWf := hwf
    lengthBound := hlen.le.trans hn
    cursor := c.cursor
    cursorBound := by rw [hlen, loadedWith_pc, hpc]; show 0x200 ≤ _; omega
    unloaded := fun h => by simp at h
    lowZero := fun a ha => hzeros a (.inl ha)
    tailZero := fun _ a ha => hzeros a (.inr (hlen ▸ ha))
    lines := fun k hk => by simp [hout] at hk
    decodes := fun h => by simp [hd] at h
    ended := fun h => by simp [hd] at h }

/-- An error keeps the invariant, whatever bytes of the load region a short read has left (R212, R215). -/
theorem Consistent.raiseError_scrambled {s : State} {n : Nat} (c : Consistent s) (hp : s.phase = .empty)
    (hd : s.driver = .asks) (hn : n ≤ 0xE00) (k : ErrorKind) : Consistent (raiseError k (scrambled n s)) := by
  obtain ⟨hlen, hout, -, -⟩ := c.empty_values hp
  obtain ⟨hwf, hzeros⟩ := c.setBytes_zeros (bs := freeBytes s n) hp (by simpa [freeBytes] using hn)
  exact {
    memoryWf := hwf
    lengthBound := c.lengthBound
    cursor := c.cursor
    cursorBound := c.cursorBound
    unloaded := fun _ => hlen
    lowZero := fun a ha => hzeros a (.inl ha)
    tailZero := fun h => absurd rfl h
    lines := fun j hj => absurd (show j < s.out.length from hj) (by simp [hout])
    decodes := fun h => absurd (hd.symm.trans h) (by decide)
    ended := fun h => absurd (hd.symm.trans h) (by decide) }

/-- Every `load` of an empty buffer keeps the invariant. -/
theorem Consistent.of_loadSource {s t : State} {src : Source} (c : Consistent s) (hp : s.phase = .empty)
    (hd : s.driver = .asks) (h : loadSource s src = .next t) : Consistent t := by
  rcases loadSource_next h with ⟨-, k, n, hn, rfl⟩ | ⟨-, bs, hn, rfl⟩
  · exact c.raiseError_scrambled hp hd hn k
  · exact c.loadedWith hp hd hn

/-- The phases in which a run goes on are neither `UNINIT` nor `FAILED` (R25). -/
theorem running_phase {p : Phase} (h : p = .empty ∨ p = .loaded) : p ≠ .uninit ∧ p ≠ .failed := by
  rcases h with rfl | rfl
  · decide
  · decide

/-- Settles O53: by the cases of a step.  Only `init` is admitted in `UNINIT`, so in every other case the state before is
consistent. -/
theorem stepKeepsTheInvariant : Obligations.StepKeepsTheInvariant := by
  unfold Obligations.StepKeepsTheInvariant
  intro s t hs h _
  rcases step_cases h with ⟨rest, -, rfl⟩ | ⟨rest, hdec, -, rfl⟩ | ⟨rest, hdec, he, hpc, hx⟩ | ⟨q, rest, -, hp, rfl⟩
    | ⟨src, rest, -, hp, hl⟩ | ⟨-, hp, -, rfl⟩
  · exact initialized_consistent rfl
  · exact ((hs (running_phase hdec.1).1).turn _ rest).answer _
  · obtain ⟨l, hline, rfl⟩ := exec_fetched_next hpc hx
    exact ((hs (running_phase hdec.1).1).turn _ rest).emitted rfl he hline
  · exact ((hs (running_phase hp).1).turn _ rest).answer _
  · exact ((hs (running_phase (.inl hp)).1).turn _ rest).of_loadSource hp rfl hl
  · exact hs (running_phase hp).1

/-- Settles O38: reset is what `init` leaves with nothing waiting. -/
theorem resetStateIsConsistent : Obligations.ResetStateIsConsistent := by
  unfold Obligations.ResetStateIsConsistent
  have c : Consistent State.reset := initialized_consistent (s := State.reset) rfl
  exact ⟨fun _ => c, c, get_empty, rfl, rfl, rfl, rfl, .inr rfl, rfl⟩

end Sys2Proof.Machine
end

section
/-! PROOFS. What a step does to the cursor and to the phase (spec/10_state.md R21, R25). -/

namespace Sys2Proof.Machine

/-- A request that is no `decode_step` is performed instead of a decode step. -/
theorem not_decodesNext_of_request {s : State} {r : Request} {rest : List Request} (h : s.requests = r :: rest)
    (hr : r ≠ .decodeStep) (rest' : List Request) : ¬ DecodesNext s rest' := by
  rintro ⟨-, hd | ⟨hd, -, -⟩⟩
  · exact hr (List.cons.inj (h.symm.trans hd)).1
  · cases h.symm.trans hd

/-- With no request waiting, the driver decodes only after the answer false. -/
theorem not_decodesNext_of_driver {s : State} (h : s.requests = []) (hd : s.driver ≠ .decodes)
    (rest : List Request) : ¬ DecodesNext s rest := by
  rintro ⟨-, hr | ⟨-, -, hr⟩⟩
  · cases h.symm.trans hr
  · exact hd hr

/-- The two ways a step comes to perform `init`, without the requests that remain. -/
theorem init_asked {s : State} {rest : List Request}
    (h : s.requests = .init :: rest ∨ (s.phase = .uninit ∧ s.requests = [] ∧ rest = [])) :
    (∃ rest, s.requests = .init :: rest) ∨ (s.phase = .uninit ∧ s.requests = []) := by
  rcases h with h | ⟨hp, h, -⟩
  · exact .inl ⟨rest, h⟩
  · exact .inr ⟨hp, h⟩

/-- Settles O48: by the cases of a step. -/
theorem cursorMovesOnlyByDecoding : Obligations.CursorMovesOnlyByDecoding := by
  unfold Obligations.CursorMovesOnlyByDecoding
  intro s t h
  rcases step_cases h with ⟨rest, hi, rfl⟩ | ⟨rest, hdec, he, rfl⟩ | ⟨rest, hdec, he, hpc, hx⟩ | ⟨q, rest, hq, hp, rfl⟩
    | ⟨src, rest, hr, hp, hl⟩ | ⟨hr, hp, hd, rfl⟩
  · exact .inl ⟨init_asked hi, rfl⟩
  · exact .inr (.inr (.inl ⟨⟨rest, hdec⟩, he, rfl, rfl⟩))
  · obtain ⟨l, hline, rfl⟩ := exec_fetched_next hpc hx
    exact .inr (.inl ⟨⟨rest, hdec⟩, he, rfl, l, hline, rfl⟩)
  · refine .inr (.inr (.inr ⟨?_, ?_, (running_phase hp).1, rfl, rfl⟩))
    · rcases hq with hq | ⟨hq, -, hd, -⟩
      · exact not_decodesNext_of_request hq (by simp)
      · exact not_decodesNext_of_driver hq (by simp [hd])
    · rcases hq with hq | ⟨hq, -, -, -⟩ <;> simp [hq]
  · obtain ⟨hpc, hout⟩ := loadSource_next_pc_out hl
    exact .inr (.inr (.inr ⟨not_decodesNext_of_request hr (by simp), by simp [hr], (running_phase (.inl hp)).1, hpc, hout⟩))
  · exact .inr (.inr (.inr ⟨not_decodesNext_of_driver hr (by simp [hd]), by simp [hr], (running_phase hp).1, rfl, rfl⟩))

/-- Settles O52: by the cases of a step; a `load` is the only one that leaves `EMPTY`. -/
theorem phaseTransitions : Obligations.PhaseTransitions := by
  unfold Obligations.PhaseTransitions
  intro s t h
  rcases step_cases h with ⟨rest, hi, rfl⟩ | ⟨rest, hdec, -, rfl⟩ | ⟨rest, hdec, -, hpc, hx⟩ | ⟨q, rest, -, hp, rfl⟩
    | ⟨src, rest, hr, hp, hl⟩ | ⟨-, hp, -, rfl⟩
  · exact .inr (.inl ⟨rfl, init_asked hi⟩)
  · exact .inl ⟨rfl, running_phase hdec.1⟩
  · obtain ⟨l, -, rfl⟩ := exec_fetched_next hpc hx
    exact .inl ⟨rfl, running_phase hdec.1⟩
  · exact .inl ⟨rfl, running_phase hp⟩
  · rcases loadSource_next hl with ⟨hacc, k, n, -, rfl⟩ | ⟨hacc, bs, -, rfl⟩
    · exact .inr (.inr (.inr ⟨hp, rfl, src, rest, hr, hacc⟩))
    · exact .inr (.inr (.inl ⟨hp, rfl, src, rest, hr, hacc⟩))
  · exact .inl ⟨rfl, running_phase hp⟩

end Sys2Proof.Machine
end

section
/-! PROOFS. The canonical form of `memory` (log entry 2) is determined by what it reads. -/

namespace Sys2Proof.Machine

theorem wfFrom_cons {lo a : Nat} {v : Byte} {rest : Memory} :
    Memory.wfFrom lo ((a, v) :: rest) = true
      ↔ lo ≤ a ∧ a < Config.memSize ∧ v ≠ 0x00#8 ∧ Memory.wfFrom (a + 1) rest = true := by
  simp only [Memory.wfFrom, Bool.and_eq_true, decide_eq_true_eq, and_assoc]

@[simp] theorem get_cons_self (a : Nat) (v : Byte) (rest : Memory) : Memory.get ((a, v) :: rest) a = v := if_pos rfl

theorem get_cons_of_ne {a x : Nat} (h : x ≠ a) (v : Byte) (rest : Memory) :
    Memory.get ((a, v) :: rest) x = Memory.get rest x := if_neg h

/-- A canonical list that does not read 0x00 at an address starts at or below it. -/
theorem head_le_of_get_ne_zero {lo a x : Nat} {v : Byte} {rest : Memory}
    (hm : Memory.wfFrom lo ((a, v) :: rest) = true) (hx : Memory.get ((a, v) :: rest) x ≠ 0x00#8) : a ≤ x := by
  by_contra h
  obtain ⟨-, ha, hv, hrest⟩ := wfFrom_cons.mp hm
  exact hx (get_of_lt_wfFrom (Nat.lt_of_not_le h) (wfFrom_cons.mpr ⟨le_rfl, ha, hv, hrest⟩))

/-- Two canonical lists with the same reads are equal: the heads have the same address, the least that does not read 0x00,
and the tails read the same, 0x00 at that address. -/
theorem eq_of_get_eq : ∀ {lo : Nat} {m m' : Memory}, Memory.wfFrom lo m = true → Memory.wfFrom lo m' = true →
    (∀ a, Memory.get m a = Memory.get m' a) → m = m'
  | _, [], [], _, _, _ => rfl
  | _, [], (b, w) :: rest', _, hm', h => by
    obtain ⟨-, -, hw, -⟩ := wfFrom_cons.mp hm'
    exact absurd (h b) (by simpa using hw.symm)
  | _, (a, v) :: rest, [], hm, _, h => by
    obtain ⟨-, -, hv, -⟩ := wfFrom_cons.mp hm
    exact absurd (h a) (by simpa using hv)
  | _, (a, v) :: rest, (b, w) :: rest', hm, hm', h => by
    obtain ⟨-, -, hv, hrest⟩ := wfFrom_cons.mp hm
    obtain ⟨-, -, hw, hrest'⟩ := wfFrom_cons.mp hm'
    have hab : a ≤ b := head_le_of_get_ne_zero hm (by rwa [h, get_cons_self])
    have hba : b ≤ a := head_le_of_get_ne_zero hm' (by rwa [← h, get_cons_self])
    obtain rfl : a = b := Nat.le_antisymm hab hba
    obtain rfl : v = w := by simpa using h a
    have htails : ∀ x, Memory.get rest x = Memory.get rest' x := by
      intro x
      by_cases hx : x = a
      · rw [hx, get_of_lt_wfFrom a.lt_succ_self hrest, get_of_lt_wfFrom a.lt_succ_self hrest']
      · rw [← get_cons_of_ne hx v rest, h, get_cons_of_ne hx]
    rw [eq_of_get_eq hrest hrest' htails]

/-- Settles O36: the lemma for lists canonical above any address, at address 0. -/
theorem equalMemoriesAreEqualData : Obligations.EqualMemoriesAreEqualData := by
  unfold Obligations.EqualMemoriesAreEqualData
  intro m m' hm hm' h
  exact eq_of_get_eq hm hm' h

end Sys2Proof.Machine
end

section
/-! PROOFS. Who writes `memory` (spec/20_memory.md R44): `initialize` zeroes it, a `load` writes its bytes one by one from
the load origin up, and no other step writes it. -/

namespace Sys2Proof.Machine

/-! ### Runs of one-byte writes -/

/-- A run of writes is its one-byte writes, in rising order of address (R44). -/
theorem setBytes_eq_foldl (bs : List Byte) (m : Memory) (a : Nat) :
    Memory.setBytes m a bs
      = (List.range bs.length).foldl (fun m j => Memory.set m (a + j) (bs.getD j 0x00#8)) m := by
  induction bs generalizing m a with
  | nil => rfl
  | cons v rest ih =>
    rw [Memory.setBytes, ih, List.length_cons, List.range_succ_eq_map, List.foldl_cons, List.foldl_map]
    simp only [Nat.add_zero, List.getD_cons_zero, List.getD_cons_succ, Nat.succ_eq_add_one, Nat.add_right_comm a 1,
      ← Nat.add_assoc]

/-- A canonical memory lists nothing at or above its size. -/
theorem get_of_memSize_le {a : Nat} (ha : Config.memSize ≤ a) :
    ∀ {lo : Nat} {m : Memory}, Memory.wfFrom lo m = true → Memory.get m a = 0x00#8
  | _, [], _ => rfl
  | _, (b, v) :: rest, hm => by
    obtain ⟨-, hb, -, hrest⟩ := wfFrom_cons.mp hm
    rw [get_cons_of_ne (Nat.ne_of_gt (Nat.lt_of_lt_of_le hb ha)), get_of_memSize_le ha hrest]

/-- Writing 0x00 to every address of a canonical memory empties the list. -/
theorem setBytes_zeros_eq_nil {m : Memory} {n : Nat} (hm : m.wf = true) (hn : n = Config.memSize) :
    Memory.setBytes m 0 (List.replicate n 0x00#8) = [] := by
  have hfit : 0 + (List.replicate n 0x00#8).length ≤ Config.memSize := by rw [List.length_replicate, Nat.zero_add, hn]
  refine eq_of_get_eq (setBytes_keeps_wf hm hfit) rfl fun a => ?_
  rw [get_empty]
  by_cases ha : a < n
  · rw [get_setBytes a hm hfit, if_pos a.zero_le, Nat.sub_zero, List.getD_replicate _ ha]
  · exact get_of_memSize_le (hn ▸ Nat.le_of_not_lt ha) (setBytes_keeps_wf hm hfit)

/-- One-byte writes of 0x00 to every address of a canonical memory leave no byte listed (R90). -/
theorem foldl_set_zero_eq_nil {m : Memory} {n : Nat} (hm : m.wf = true) (hn : n = Config.memSize) :
    (List.range n).foldl (fun m i => Memory.set m i 0x00#8) m = [] := by
  have h := setBytes_zeros_eq_nil hm hn
  rw [setBytes_eq_foldl] at h
  simpa only [List.length_replicate, Nat.zero_add, List.getD_eq_getElem?_getD,
    List.getElem?_getD_replicate_default_eq] using h

/-! ### The steps that write `memory` -/

/-- A step that performs `init` leaves no byte listed (R90). -/
theorem step_init_memory {s t : State}
    (hr : (∃ rest, s.requests = .init :: rest) ∨ (s.phase = .uninit ∧ s.requests = [])) (h : step s = .next t) :
    t.memory = [] := by
  rcases hr with ⟨rest, hr⟩ | ⟨hp, hr⟩
  · cases (step_request hr).symm.trans h
    rfl
  · cases (step_driver hr (r := .init) (by rw [driverMove, hp])).symm.trans h
    rfl

/-- A step that performs a waiting `load` does what its source says (R92). -/
theorem step_load_next {s t : State} {src : Source} {rest : List Request} (hr : s.requests = .load src :: rest)
    (h : step s = .next t) : loadSource (s.turn (.load src) rest) src = .next t :=
  (requirePhase_next ((step_request hr).symm.trans h)).2

/-- A whole source that fits is copied from the load origin up (R92). -/
theorem step_load_bytes_memory {s t : State} {bs : List Byte} {rest : List Request}
    (hr : s.requests = .load (.bytes bs) :: rest) (hn : bs.length ≤ 0xE00) (h : step s = .next t) :
    t.memory = Memory.setBytes s.memory 0x200 bs := by
  cases (loadSource_bytes hn).symm.trans (step_load_next hr h)
  rfl

/-- A source that cannot be opened or is too long is not read (R211, R214). -/
theorem step_load_unread_memory {s t : State} {src : Source} {rest : List Request}
    (hr : s.requests = .load src :: rest)
    (hsrc : src = .openFail ∨ (∃ bs, src = .bytes bs ∧ bs.length > 0xE00)
      ∨ (∃ got lack, src = .short got lack ∧ got.length + lack + 1 > 0xE00))
    (h : step s = .next t) : t.memory = s.memory := by
  have hl := step_load_next hr h
  rcases hsrc with rfl | ⟨bs, rfl, hn⟩ | ⟨got, lack, rfl, hn⟩
  · cases hl
    rfl
  · cases (loadSource_bytes_over hn).symm.trans hl
    rfl
  · cases (loadSource_short_over hn).symm.trans hl
    rfl

@[simp] theorem length_freeBytes (s : State) (n : Nat) : (freeBytes s n).length = n := by simp [freeBytes]

/-- A short read writes free values over the places of the source's bytes (R212). -/
theorem step_load_short_memory {s t : State} {got : List Byte} {lack : Nat} {rest : List Request}
    (hr : s.requests = .load (.short got lack) :: rest) (hn : got.length + lack + 1 ≤ 0xE00) (h : step s = .next t) :
    ∃ vs : List Byte, vs.length = got.length + lack + 1 ∧ t.memory = Memory.setBytes s.memory 0x200 vs := by
  cases (loadSource_short hn).symm.trans (step_load_next hr h)
  exact ⟨_, length_freeBytes _ _, rfl⟩

/-! ### The steps that do not -/

/-- A step that is neither `initialize` nor a `load` leaves `memory` as it is. -/
theorem step_other_memory {s t : State} (hp : s.phase ≠ .uninit) (h : step s = .next t)
    (hinit : ∀ rest, s.requests ≠ .init :: rest) (hload : ∀ src rest, s.requests ≠ .load src :: rest) :
    t.memory = s.memory := by
  rcases step_cases h with ⟨rest, hi, -⟩ | ⟨-, -, -, rfl⟩ | ⟨rest, -, -, -, hx⟩ | ⟨-, -, -, -, rfl⟩ | ⟨src, rest, hr, -⟩
    | ⟨-, -, -, rfl⟩
  · rcases hi with hr | ⟨hu, -⟩
    · exact absurd hr (hinit rest)
    · exact absurd hu hp
  · rfl
  · obtain ⟨-, rfl⟩ := exec_next hx
    rfl
  · rfl
  · exact absurd hr (hload src rest)
  · rfl

/-- In `FAILED` only `init` is admitted (R25, R216). -/
theorem perform_failed {s : State} {r : Request} (hp : s.phase = .failed) (hr : r ≠ .init) :
    perform r s = .refused (.notAdmitted r.op .failed) := by
  rw [← hp]
  cases r with
  | init => exact absurd rfl hr
  | load src => exact requirePhase_refused (by rw [hp]; rfl) _
  | isEnd c => exact requirePhase_refused (by rw [hp]; rfl) _
  | decodeStep => exact requirePhase_refused (by rw [hp]; rfl) _

/-- Settles O49: one lemma for each kind of step, and the run of writes of a `load` as its one-byte writes. -/
theorem memoryIsWrittenOnlyByInitializeAndLoad : Obligations.MemoryIsWrittenOnlyByInitializeAndLoad := by
  unfold Obligations.MemoryIsWrittenOnlyByInitializeAndLoad
  have hfit : ∀ {n : Nat}, n ≤ 0xE00 → 0x200 + n ≤ Config.memSize := fun hn => Nat.add_le_add_left hn 0x200
  refine ⟨fun s t hr h => ?_, fun s t bs rest hm hr hn h => ?_, fun s t src rest hr hsrc h => ?_,
    fun s t got lack rest hm hr hn h => ?_, fun s t hp h hinit hload => ?_, fun m a v x hm _ hx => ?_,
    fun s r rest hp hr hne => ?_⟩
  · rw [step_init_memory hr h]
    exact ⟨get_empty, fun hm => (foldl_set_zero_eq_nil hm rfl).symm⟩
  · rw [step_load_bytes_memory hr hn h]
    refine ⟨setBytes_eq_foldl _ _ _, fun j hj => ?_, fun a ha => get_setBytes_outside a hm (hfit hn) ha⟩
    rw [get_setBytes_inside hm (hfit hn) hj, List.getElem?_eq_getElem hj]
  · exact step_load_unread_memory hr hsrc h
  · obtain ⟨vs, hlen, hmem⟩ := step_load_short_memory hr hn h
    rw [hmem]
    rw [← hlen] at hn ⊢
    exact ⟨⟨vs, rfl, setBytes_eq_foldl _ _ _⟩, fun a ha => get_setBytes_outside a hm (hfit hn) ha⟩
  · exact step_other_memory hp h hinit hload
  · rw [get_set hm, if_neg hx]
  · rw [step_request hr]
    exact perform_failed (s := s.turn r rest) hp hne

end Sys2Proof.Machine
end

section
/-! PROOFS. The dispatch undoes the encoder (spec/30_encoding.md R65, R66): what a fall-back row selects, that every decoded
instruction is well formed, and the round trip from the instruction's side. -/

namespace Sys2Proof.Laws

/-! ### The fall-back rows -/

theorem decodeFamily0_sys {f : Fields} (h : f.nnn ∉ family0Selectors) : decodeFamily0 f = .sys f.nnn := by
  simp only [family0Selectors, List.mem_cons, List.not_mem_nil, or_false, not_or] at h
  simp only [decodeFamily0, h, if_false]

theorem decodeFamily8_unk8 {f : Fields} (h : f.d ∉ family8Selectors) : decodeFamily8 f = .unk8 f.b f.c f.d := by
  simp only [family8Selectors, List.mem_cons, List.not_mem_nil, or_false, not_or] at h
  simp only [decodeFamily8, h, if_false]

theorem decodeFamilyE_unkE {f : Fields} (h : f.kk ∉ familyESelectors) : decodeFamilyE f = .unkE f.b f.kk := by
  simp only [familyESelectors, List.mem_cons, List.not_mem_nil, or_false, not_or] at h
  simp only [decodeFamilyE, h, if_false]

theorem decodeFamilyF_unkF {f : Fields} (h : f.kk ∉ familyFSelectors) : decodeFamilyF f = .unkF f.b f.kk := by
  simp only [familyFSelectors, List.mem_cons, List.not_mem_nil, or_false, not_or] at h
  simp only [decodeFamilyF, h, if_false]

/-! ### The decoder after the encoder -/

/-- Each constructor's pattern, read by the extractor, selects the constructor's own arm; a fall-back row needs that its
selector is undefined. -/
theorem decode_encode {i : Instr} (hi : i.wf = true) : decode (encode i) = i := by
  cases i with
  | sys nnn => exact (decode_append_addr 0x0#4 nnn).trans (decodeFamily0_sys (of_decide_eq_true hi))
  | cls => rfl
  | ret => rfl
  | jpAddr nnn => exact decode_append_addr 0x1#4 nnn
  | call nnn => exact decode_append_addr 0x2#4 nnn
  | seByte b kk => exact decode_append_byte 0x3#4 b kk
  | sneByte b kk => exact decode_append_byte 0x4#4 b kk
  | seReg b c d => exact decode_append_nibbles 0x5#4 b c d
  | ldByte b kk => exact decode_append_byte 0x6#4 b kk
  | addByte b kk => exact decode_append_byte 0x7#4 b kk
  | ldReg b c => exact decode_append_nibbles 0x8#4 b c 0x0#4
  | orReg b c => exact decode_append_nibbles 0x8#4 b c 0x1#4
  | andReg b c => exact decode_append_nibbles 0x8#4 b c 0x2#4
  | xorReg b c => exact decode_append_nibbles 0x8#4 b c 0x3#4
  | addReg b c => exact decode_append_nibbles 0x8#4 b c 0x4#4
  | sub b c => exact decode_append_nibbles 0x8#4 b c 0x5#4
  | shr b c => exact decode_append_nibbles 0x8#4 b c 0x6#4
  | subn b c => exact decode_append_nibbles 0x8#4 b c 0x7#4
  | shl b c => exact decode_append_nibbles 0x8#4 b c 0xE#4
  | unk8 b c d => exact (decode_append_nibbles 0x8#4 b c d).trans (decodeFamily8_unk8 (of_decide_eq_true hi))
  | sneReg b c d => exact decode_append_nibbles 0x9#4 b c d
  | ldI nnn => exact decode_append_addr 0xA#4 nnn
  | jpV0 nnn => exact decode_append_addr 0xB#4 nnn
  | rnd b kk => exact decode_append_byte 0xC#4 b kk
  | drw b c d => exact decode_append_nibbles 0xD#4 b c d
  | skp b => exact decode_append_byte 0xE#4 b 0x9E#8
  | sknp b => exact decode_append_byte 0xE#4 b 0xA1#8
  | unkE b kk => exact (decode_append_byte 0xE#4 b kk).trans (decodeFamilyE_unkE (of_decide_eq_true hi))
  | ldVxDT b => exact decode_append_byte 0xF#4 b 0x07#8
  | ldVxK b => exact decode_append_byte 0xF#4 b 0x0A#8
  | ldDTVx b => exact decode_append_byte 0xF#4 b 0x15#8
  | ldSTVx b => exact decode_append_byte 0xF#4 b 0x18#8
  | addIVx b => exact decode_append_byte 0xF#4 b 0x1E#8
  | ldFVx b => exact decode_append_byte 0xF#4 b 0x29#8
  | ldBVx b => exact decode_append_byte 0xF#4 b 0x33#8
  | ldMIVx b => exact decode_append_byte 0xF#4 b 0x55#8
  | ldVxMI b => exact decode_append_byte 0xF#4 b 0x65#8
  | unkF b kk => exact (decode_append_byte 0xF#4 b kk).trans (decodeFamilyF_unkF (of_decide_eq_true hi))

/-- The decoder of bytes reads an instruction from the front of its own bytes (R60). -/
theorem decodeBytes_encodeBytes_append {i : Instr} (hi : i.wf = true) (rest : List Byte) :
    decodeBytes (encodeBytes i ++ rest) = .ok i := by
  show Except.ok (decode (wordOfBytes (highByte (encode i)) (lowByte (encode i)))) = .ok i
  rw [wordOfBytes_bytes, decode_encode hi]

/-- Settles O1: every constructor's pattern is undone by its arm, and its two bytes are its word. -/
theorem decodeOfEncodeIsTheInstruction : Obligations.DecodeOfEncodeIsTheInstruction := by
  unfold Obligations.DecodeOfEncodeIsTheInstruction
  intro i hi
  exact ⟨decode_encode hi, decodeBytes_encodeBytes_append hi⟩

end Sys2Proof.Laws
end

section
/-! PROOFS. Every word decodes to a well-formed instruction (spec/30_encoding.md R70, R75): an arm of a second level that
restricts a field comes after the tests of the selectors. -/

namespace Sys2Proof.Laws

theorem decodeFamily0_wf (f : Fields) : (decodeFamily0 f).wf = true := by
  by_cases h : f.nnn ∈ family0Selectors
  · simp only [family0Selectors, List.mem_cons, List.not_mem_nil, or_false] at h
    rcases h with h | h <;> simp [decodeFamily0, h, Instr.wf]
  · rw [decodeFamily0_sys h]
    exact decide_eq_true h

theorem decodeFamily8_wf (f : Fields) : (decodeFamily8 f).wf = true := by
  by_cases h : f.d ∈ family8Selectors
  · simp only [family8Selectors, List.mem_cons, List.not_mem_nil, or_false] at h
    rcases h with h | h | h | h | h | h | h | h | h <;> simp [decodeFamily8, h, Instr.wf]
  · rw [decodeFamily8_unk8 h]
    exact decide_eq_true h

theorem decodeFamilyE_wf (f : Fields) : (decodeFamilyE f).wf = true := by
  by_cases h : f.kk ∈ familyESelectors
  · simp only [familyESelectors, List.mem_cons, List.not_mem_nil, or_false] at h
    rcases h with h | h <;> simp [decodeFamilyE, h, Instr.wf]
  · rw [decodeFamilyE_unkE h]
    exact decide_eq_true h

theorem decodeFamilyF_wf (f : Fields) : (decodeFamilyF f).wf = true := by
  by_cases h : f.kk ∈ familyFSelectors
  · simp only [familyFSelectors, List.mem_cons, List.not_mem_nil, or_false] at h
    rcases h with h | h | h | h | h | h | h | h | h <;> simp [decodeFamilyF, h, Instr.wf]
  · rw [decodeFamilyF_unkF h]
    exact decide_eq_true h

/-- Only the four families with a second level can select an entry that restricts a field: the arms of `a` = 0, 8, 0xE and
0xF, which are the first, ninth, fifteenth and sixteenth. -/
theorem decode_wf (w : Word) : (decode w).wf = true := by
  unfold decode decodeFields
  split
  case h_1 => exact decodeFamily0_wf _
  case h_9 => exact decodeFamily8_wf _
  case h_15 => exact decodeFamilyE_wf _
  case h_16 => exact decodeFamilyF_wf _
  all_goals rfl

/-- Settles O2: the dispatch never leaves a fall-back row with a defined selector, and the encoder undoes it. -/
theorem encodeOfDecodeIsTheWord : Obligations.EncodeOfDecodeIsTheWord := by
  unfold Obligations.EncodeOfDecodeIsTheWord
  exact fun w => ⟨decode_wf w, encode_decode w⟩

end Sys2Proof.Laws
end

section
/-! PROOFS. What selects an entry, said once on the extracted fields (spec/30_encoding.md R65), then in the two forms of the
statements: the rows of the opcode map (R66, R76) and plain numbers (R65). -/

namespace Sys2Proof.Laws

/-! ### An entry from the fields that select it -/

theorem dispatch_of_a {w : Word} {a : Nibble} (ha : (fields w).a = a) :
    dispatch w = (decodeFields { fields w with a := a }).entry := by subst ha; rfl

theorem dispatch_of_a_nnn {w : Word} {a : Nibble} {nnn : Addr} (ha : (fields w).a = a) (hn : (fields w).nnn = nnn) :
    dispatch w = (decodeFields { fields w with a := a, nnn := nnn }).entry := by subst ha hn; rfl

theorem dispatch_of_a_d {w : Word} {a d : Nibble} (ha : (fields w).a = a) (hd : (fields w).d = d) :
    dispatch w = (decodeFields { fields w with a := a, d := d }).entry := by subst ha hd; rfl

theorem dispatch_of_a_kk {w : Word} {a : Nibble} {kk : Byte} (ha : (fields w).a = a) (hk : (fields w).kk = kk) :
    dispatch w = (decodeFields { fields w with a := a, kk := kk }).entry := by subst ha hk; rfl

theorem dispatch_sys {w : Word} (ha : (fields w).a = 0x0#4) (h : (fields w).nnn ∉ family0Selectors) :
    dispatch w = .SYS :=
  (dispatch_of_a ha).trans (congrArg Instr.entry (decodeFamily0_sys h))

theorem dispatch_unk8 {w : Word} (ha : (fields w).a = 0x8#4) (h : (fields w).d ∉ family8Selectors) :
    dispatch w = .UNK_8 :=
  (dispatch_of_a ha).trans (congrArg Instr.entry (decodeFamily8_unk8 h))

theorem dispatch_unkE {w : Word} (ha : (fields w).a = 0xE#4) (h : (fields w).kk ∉ familyESelectors) :
    dispatch w = .UNK_E :=
  (dispatch_of_a ha).trans (congrArg Instr.entry (decodeFamilyE_unkE h))

theorem dispatch_unkF {w : Word} (ha : (fields w).a = 0xF#4) (h : (fields w).kk ∉ familyFSelectors) :
    dispatch w = .UNK_F :=
  (dispatch_of_a ha).trans (congrArg Instr.entry (decodeFamilyF_unkF h))

/-! ### The defined rows of the opcode map -/

/-- A word is its nibble `a`, its nibble `b` and its byte `kk` (R103). -/
theorem word_eq_append_byte (w : Word) : w = (fields w).a ++ ((fields w).b ++ (fields w).kk) := word_eq_append_addr w

/-- A word is its four nibbles (R103). -/
theorem word_eq_append_nibbles (w : Word) :
    w = (fields w).a ++ ((fields w).b ++ ((fields w).c ++ (fields w).d)) := word_eq_append_addr w

/-- What a row with the mask `0xF000` says of a word. -/
theorem a_of_and_mask {w c : Word} (h : w &&& 0xF000#16 = c) : (fields w).a = (fields c).a := by
  rw [← h, word_eq_append_addr w, and_mask_a, fields_append_addr, fields_append_addr]

/-- What a row with the mask `0xF00F` says of a word. -/
theorem a_d_of_and_mask {w c : Word} (h : w &&& 0xF00F#16 = c) :
    (fields w).a = (fields c).a ∧ (fields w).d = (fields c).d := by
  rw [← h, word_eq_append_nibbles w, and_mask_a_d, fields_append_nibbles, fields_append_nibbles]
  exact ⟨rfl, rfl⟩

/-- What a row with the mask `0xF0FF` says of a word. -/
theorem a_kk_of_and_mask {w c : Word} (h : w &&& 0xF0FF#16 = c) :
    (fields w).a = (fields c).a ∧ (fields w).kk = (fields c).kk := by
  rw [← h, word_eq_append_byte w, and_mask_a_kk, fields_append_byte, fields_append_byte]
  exact ⟨rfl, rfl⟩

/-- A word that matches a row of priority 0 belongs to it: the bits of the mask are the fields the dispatch looks at. -/
theorem dispatch_of_match {e : Entry} {w : Word} (hp : e.row.priority = 0) (h : w &&& e.row.mask = e.row.code) :
    dispatch w = e := by
  cases e with
  | SYS | UNK_8 | UNK_E | UNK_F => cases hp
  | CLS | RET =>
    obtain rfl := BitVec.and_allOnes.symm.trans h
    rfl
  | JP_addr | CALL | SE_byte | SNE_byte | SE_reg | LD_byte | ADD_byte | SNE_reg | LD_I | JP_V0 | RND | DRW =>
    exact dispatch_of_a (a_of_and_mask h)
  | LD_reg | OR | AND | XOR | ADD_reg | SUB | SHR | SUBN | SHL =>
    obtain ⟨ha, hd⟩ := a_d_of_and_mask h
    exact dispatch_of_a_d ha hd
  | SKP | SKNP | LD_Vx_DT | LD_Vx_K | LD_DT_Vx | LD_ST_Vx | ADD_I_Vx | LD_F_Vx | LD_B_Vx | LD_mI_Vx | LD_Vx_mI =>
    obtain ⟨ha, hk⟩ := a_kk_of_and_mask h
    exact dispatch_of_a_kk ha hk

end Sys2Proof.Laws
end

section
/-! PROOFS. The function of R65 and the table search of R76 agree: a word matches the row of its own entry, no other row of
that priority, and no row of priority 0 when its entry is a fall-back row (spec/30_encoding.md R66, R75). -/

namespace Sys2Proof.Laws

/-- The family `RowMatch` at every instruction. -/
theorem rowMatch (i : Instr) : RowMatch.Statement i := by
  cases i with
  | sys nnn => exact RowMatch.sys nnn
  | cls => exact RowMatch.cls
  | ret => exact RowMatch.ret
  | jpAddr nnn => exact RowMatch.jpAddr nnn
  | call nnn => exact RowMatch.call nnn
  | seByte b kk => exact RowMatch.seByte b kk
  | sneByte b kk => exact RowMatch.sneByte b kk
  | seReg b c d => exact RowMatch.seReg b c d
  | ldByte b kk => exact RowMatch.ldByte b kk
  | addByte b kk => exact RowMatch.addByte b kk
  | ldReg b c => exact RowMatch.ldReg b c
  | orReg b c => exact RowMatch.orReg b c
  | andReg b c => exact RowMatch.andReg b c
  | xorReg b c => exact RowMatch.xorReg b c
  | addReg b c => exact RowMatch.addReg b c
  | sub b c => exact RowMatch.sub b c
  | shr b c => exact RowMatch.shr b c
  | subn b c => exact RowMatch.subn b c
  | shl b c => exact RowMatch.shl b c
  | unk8 b c d => exact RowMatch.unk8 b c d
  | sneReg b c d => exact RowMatch.sneReg b c d
  | ldI nnn => exact RowMatch.ldI nnn
  | jpV0 nnn => exact RowMatch.jpV0 nnn
  | rnd b kk => exact RowMatch.rnd b kk
  | drw b c d => exact RowMatch.drw b c d
  | skp b => exact RowMatch.skp b
  | sknp b => exact RowMatch.sknp b
  | unkE b kk => exact RowMatch.unkE b kk
  | ldVxDT b => exact RowMatch.ldVxDT b
  | ldVxK b => exact RowMatch.ldVxK b
  | ldDTVx b => exact RowMatch.ldDTVx b
  | ldSTVx b => exact RowMatch.ldSTVx b
  | addIVx b => exact RowMatch.addIVx b
  | ldFVx b => exact RowMatch.ldFVx b
  | ldBVx b => exact RowMatch.ldBVx b
  | ldMIVx b => exact RowMatch.ldMIVx b
  | ldVxMI b => exact RowMatch.ldVxMI b
  | unkF b kk => exact RowMatch.unkF b kk

/-- Every word matches the row of the entry it dispatches to. -/
theorem match_of_dispatch (w : Word) : w &&& (dispatch w).row.mask = (dispatch w).row.code := by
  have h := rowMatch (decode w)
  rwa [RowMatch.Statement, encode_decode] at h

/-! ### The rows a word matches -/

theorem mem_entries (e : Entry) : e ∈ entries := by cases e <;> decide

theorem mem_rowsMatching {p : Nat} {w : Word} {e : Entry} :
    e ∈ rowsMatching p w ↔ e.row.priority = p ∧ w &&& e.row.mask = e.row.code := by
  simp [rowsMatching, mem_entries, OpcodeRow.matchesWord]

theorem rowsMatching_nodup (p : Nat) (w : Word) : (rowsMatching p w).Nodup :=
  List.Nodup.filter _ (by decide)

/-- The four fall-back rows have one mask and four codes (R66). -/
theorem fallback_rows_disjoint {e e' : Entry} {w : Word} (h : e ∈ rowsMatching 1 w) (h' : e' ∈ rowsMatching 1 w) :
    e = e' := by
  have table : ∀ e ∈ entries, e.row.priority = 1 → e.row.mask = 0xF000#16
      ∧ ∀ e' ∈ entries, e'.row.priority = 1 → e.row.code = e'.row.code → e = e' := by decide
  obtain ⟨hp, hm⟩ := mem_rowsMatching.mp h
  obtain ⟨hp', hm'⟩ := mem_rowsMatching.mp h'
  obtain ⟨hmask, hcode⟩ := table e (mem_entries e) hp
  obtain ⟨hmask', -⟩ := table e' (mem_entries e') hp'
  exact hcode e' (mem_entries e') hp' (by rw [← hm, ← hm', hmask, hmask'])

/-- The rows of R66 have two priorities. -/
theorem priority_cases (e : Entry) : e.row.priority = 0 ∨ e.row.priority = 1 := by cases e <;> decide

/-- A row of priority 0 that a word matches is its own (R76). -/
theorem eq_dispatch_of_mem_rowsMatching {w : Word} {e : Entry} (h : e ∈ rowsMatching 0 w) : e = dispatch w :=
  have ⟨hp, hm⟩ := mem_rowsMatching.mp h
  (dispatch_of_match hp hm).symm

/-- No word matches two rows of one priority. -/
theorem rowsMatching_length_le_one {p : Nat} (hp : p = 0 ∨ p = 1) (w : Word) : (rowsMatching p w).length ≤ 1 := by
  rw [← List.toFinset_card_of_nodup (rowsMatching_nodup p w), Finset.card_le_one]
  intro e he e' he'
  rw [List.mem_toFinset] at he he'
  rcases hp with rfl | rfl
  · rw [eq_dispatch_of_mem_rowsMatching he, eq_dispatch_of_mem_rowsMatching he']
  · exact fallback_rows_disjoint he he'

/-- The row of its own entry is the only one of that priority that a word matches. -/
theorem rowsMatching_priority (w : Word) : rowsMatching (dispatch w).row.priority w = [dispatch w] := by
  have hm : dispatch w ∈ rowsMatching (dispatch w).row.priority w := mem_rowsMatching.mpr ⟨rfl, match_of_dispatch w⟩
  have hl := rowsMatching_length_le_one (priority_cases (dispatch w)) w
  obtain ⟨e, he⟩ := List.length_eq_one_iff.mp (hl.antisymm (List.length_pos_of_mem hm))
  rw [he, List.mem_singleton] at hm
  rw [he, hm]

theorem selectRow_eq (w : Word) : selectRow w = some (dispatch w) := by
  have own := rowsMatching_priority w
  rcases priority_cases (dispatch w) with h | h <;> rw [h] at own
  · simp only [selectRow, own]
  · have none0 : rowsMatching 0 w = [] := List.eq_nil_iff_forall_not_mem.mpr fun e he => by
      have hp := (mem_rowsMatching.mp he).1
      rw [eq_dispatch_of_mem_rowsMatching he, h] at hp
      cases hp
    simp only [selectRow, none0, own, List.head?_cons]

/-- Settles O3: a word matches its own row, which is the only one of its priority, and a fall-back row is reached only when no
row of priority 0 matches. -/
theorem dispatchAgreesWithOpcodeMap : Obligations.DispatchAgreesWithOpcodeMap := by
  unfold Obligations.DispatchAgreesWithOpcodeMap
  exact fun w => ⟨selectRow_eq w, rowsMatching_length_le_one (.inl rfl) w, rowsMatching_length_le_one (.inr rfl) w⟩

end Sys2Proof.Laws
end

section
/-! PROOFS. The dispatch clause by clause on plain numbers (spec/30_encoding.md R65): the fields as quotients and remainders,
then each clause from the fields that select its entry. -/

namespace Sys2Proof.Laws

theorem fields_a_toNat (w : Word) : (fields w).a.toNat = w.toNat / 0x1000 := by
  have hw : w.toNat < 2 ^ 16 := w.isLt
  simp only [fields_eq_slices, BitVec.extractLsb'_toNat, Nat.shiftRight_eq_div_pow]
  omega

theorem fields_d_toNat (w : Word) : (fields w).d.toNat = w.toNat % 0x10 := by
  simp [fields_eq_slices, BitVec.extractLsb'_toNat]

theorem fields_kk_toNat (w : Word) : (fields w).kk.toNat = w.toNat % 0x100 := by
  simp [fields_eq_slices, BitVec.extractLsb'_toNat]

theorem fields_nnn_toNat (w : Word) : (fields w).nnn.toNat = w.toNat % 0x1000 := by
  simp [fields_eq_slices, BitVec.extractLsb'_toNat]

section

variable {w : Word} {k : Nat}

theorem fields_a_eq (h : w.toNat / 0x1000 = k) : (fields w).a = BitVec.ofNat 4 k := by
  rw [← h, ← fields_a_toNat, BitVec.ofNat_toNat, BitVec.setWidth_eq]

theorem fields_d_eq (h : w.toNat % 0x10 = k) : (fields w).d = BitVec.ofNat 4 k := by
  rw [← h, ← fields_d_toNat, BitVec.ofNat_toNat, BitVec.setWidth_eq]

theorem fields_kk_eq_ofNat (h : w.toNat % 0x100 = k) : (fields w).kk = BitVec.ofNat 8 k := by
  rw [← h, ← fields_kk_toNat, BitVec.ofNat_toNat, BitVec.setWidth_eq]

theorem fields_nnn_eq_ofNat (h : w.toNat % 0x1000 = k) : (fields w).nnn = BitVec.ofNat 12 k := by
  rw [← h, ← fields_nnn_toNat, BitVec.ofNat_toNat, BitVec.setWidth_eq]

end

/-- A selector outside a list of defined ones, compared as numbers. -/
theorem not_mem_of_toNat {n : Nat} {x : BitVec n} {l : List (BitVec n)} (h : x.toNat ∉ l.map BitVec.toNat) : x ∉ l :=
  mt List.mem_map_of_mem h

/-- Settles O4: the fields of each clause select the clause's entry. -/
theorem dispatchFollowsItsTwoLevels : Obligations.DispatchFollowsItsTwoLevels := by
  unfold Obligations.DispatchFollowsItsTwoLevels
  intro w
  have first (k : Nat) (ha : w.toNat / 0x1000 = k) := dispatch_of_a (fields_a_eq ha)
  have byNNN (k n : Nat) (ha : w.toNat / 0x1000 = k) (hn : w.toNat % 0x1000 = n) :=
    dispatch_of_a_nnn (fields_a_eq ha) (fields_nnn_eq_ofNat hn)
  have byD (k d : Nat) (ha : w.toNat / 0x1000 = k) (hd : w.toNat % 0x10 = d) :=
    dispatch_of_a_d (fields_a_eq ha) (fields_d_eq hd)
  have byKK (k n : Nat) (ha : w.toNat / 0x1000 = k) (hk : w.toNat % 0x100 = n) :=
    dispatch_of_a_kk (fields_a_eq ha) (fields_kk_eq_ofNat hk)
  exact ⟨first 0x1, first 0x2, first 0x3, first 0x4, first 0x5, first 0x6, first 0x7, first 0x9, first 0xA, first 0xB,
    first 0xC, first 0xD,
    byNNN 0x0 0x0E0, byNNN 0x0 0x0EE,
    fun ha h h' => dispatch_sys (fields_a_eq ha) (not_mem_of_toNat (by simp [family0Selectors, fields_nnn_toNat, h, h'])),
    byD 0x8 0x0, byD 0x8 0x1, byD 0x8 0x2, byD 0x8 0x3, byD 0x8 0x4, byD 0x8 0x5, byD 0x8 0x6, byD 0x8 0x7, byD 0x8 0xE,
    fun ha h => dispatch_unk8 (fields_a_eq ha) (not_mem_of_toNat (by rw [fields_d_toNat]; exact h)),
    byKK 0xE 0x9E, byKK 0xE 0xA1,
    fun ha h h' => dispatch_unkE (fields_a_eq ha) (not_mem_of_toNat (by simp [familyESelectors, fields_kk_toNat, h, h'])),
    byKK 0xF 0x07, byKK 0xF 0x0A, byKK 0xF 0x15, byKK 0xF 0x18, byKK 0xF 0x1E, byKK 0xF 0x29, byKK 0xF 0x33, byKK 0xF 0x55,
    byKK 0xF 0x65,
    fun ha h => dispatch_unkF (fields_a_eq ha) (not_mem_of_toNat (by rw [fields_kk_toNat]; exact h))⟩

end Sys2Proof.Laws
end

section
/-! PROOFS. Words written out as the patterns of their instructions, and family 0, whose second level has no unknown record
(spec/30_encoding.md R66, R72). -/

namespace Sys2Proof.Laws

/-- A word that is the pattern of a well-formed instruction decodes to it. -/
theorem decode_of_encode_eq {i : Instr} {w : Word} (h : encode i = w) (hi : i.wf = true) : decode w = i := by
  rw [← h, decode_encode hi]

/-- Settles O5: each word is the pattern of its instruction with the operands filled in. -/
theorem wordsWrittenOutDecodeAsTheSpecSays : Obligations.WordsWrittenOutDecodeAsTheSpecSays := by
  unfold Obligations.WordsWrittenOutDecodeAsTheSpecSays
  exact ⟨decode_of_encode_eq rfl rfl, decode_of_encode_eq rfl rfl, decode_of_encode_eq rfl rfl, decode_of_encode_eq rfl rfl,
    decode_of_encode_eq rfl rfl, decode_of_encode_eq rfl rfl, decode_of_encode_eq rfl rfl, decode_of_encode_eq rfl rfl,
    decode_of_encode_eq rfl rfl, decode_of_encode_eq rfl rfl, decode_of_encode_eq rfl rfl, decode_of_encode_eq rfl rfl⟩

/-! ### Family 0 -/

/-- The second level of family 0 on its words (R72, R113). -/
theorem decode_family0 (nnn : Addr) :
    decode (0x0#4 ++ nnn) = if nnn = 0x0E0#12 then .cls else if nnn = 0x0EE#12 then .ret else .sys nnn :=
  decode_append_addr 0x0#4 nnn

theorem dispatch_family0 (nnn : Addr) :
    dispatch (0x0#4 ++ nnn) = .CLS ∨ dispatch (0x0#4 ++ nnn) = .RET ∨ dispatch (0x0#4 ++ nnn) = .SYS := by
  rw [dispatch, decode_family0]
  split
  · exact .inl rfl
  · split
    · exact .inr (.inl rfl)
    · exact .inr (.inr rfl)

/-- The addresses `0x0C0` to `0x0CF` are not selectors of family 0. -/
theorem sys_0Cn_wf : ∀ n : Nibble, (Instr.sys (0x0#4 ++ (0xC#4 ++ n))).wf = true := by decide

/-- Settles O12: the second level of family 0 has three arms, and the written-out words are patterns of `SYS`. -/
theorem familyZeroHasNoUnknownRecord : Obligations.FamilyZeroHasNoUnknownRecord := by
  unfold Obligations.FamilyZeroHasNoUnknownRecord
  refine ⟨decode_family0, fun nnn => ?_, decode_of_encode_eq rfl rfl, fun n => decode_of_encode_eq rfl (sys_0Cn_wf n),
    decode_of_encode_eq rfl rfl, decode_of_encode_eq rfl rfl, decode_of_encode_eq rfl rfl, decode_of_encode_eq rfl rfl,
    decode_of_encode_eq rfl rfl⟩
  rcases dispatch_family0 nnn with h | h | h <;> rw [h] <;> decide

end Sys2Proof.Laws
end

section
/-! PROOFS. Every word is two bytes and runs (spec/30_encoding.md R60, R70): the meaning of any instruction completes wherever
the cursor is an address of `memory`. -/

namespace Sys2Proof.Machine

open Sys2Proof.Laws

/-- Settles O6: the bytes are the word's, and every instruction completes by emitting a line. -/
theorem everyInstructionIsTwoBytesLong : Obligations.EveryInstructionIsTwoBytesLong := by
  unfold Obligations.EveryInstructionIsTwoBytesLong
  refine ⟨fun hi lo rest => ?_, fun w s hpc => ?_⟩
  · rw [← wordOfBytes_ofNat]
    rfl
  · have hlt : s.pc.toNat < 0x1000 := by omega
    exact ⟨_, exec_completes (decode w) hlt, emitted_pc_toNat _ hlt⟩

/-- Settles O47: the two bytes at the cursor are fetched, whatever word they hold decodes, and its instruction completes. -/
theorem noWordStopsTheBlock : Obligations.NoWordStopsTheBlock := by
  unfold Obligations.NoWordStopsTheBlock
  intro s rest hd he hpc
  have hlt : (s.turn .decodeStep rest).pc.toNat < 0x1000 := by rw [turn_pc]; omega
  rw [step_decodes_before_end hd he, decodeAtCursor_eq, if_pos (by rw [turn_pc]; omega), exec_completes _ hlt]
  exact ⟨_, _, rfl, emitted_pc_toNat _ hlt, rfl, rfl⟩

end Sys2Proof.Machine
end

section
/-! PROOFS. The nibbles the text ignores (spec/30_encoding.md R69): the text from column 19 on is made of the entry and of the
operands the entry takes from the fields. -/

namespace Sys2Proof.Machine

open Sys2Proof.Laws

/-- The columns from 19 on, the line feed included, are the entry's text (R190, R201). -/
theorem drop_of_decodeWord {address : Nat} {w : Word} {l : Line} (h : decodeWord address w = some l) :
    l.drop 19 = lineTail (dispatch w) (operands (dispatch w) (fields w)) ++ ['\n'] := by
  rw [decodeWord, lineOf_eq] at h
  split at h
  · cases h
    rw [formatLine, List.append_assoc]
    exact List.drop_left' (lineHead_length _ _)
  · cases h

/-- Two words select one entry and give it the same operands, so their lines have the same text from the mnemonic on. -/
def SameText (w w' : Word) : Prop :=
  dispatch w = dispatch w' ∧ operands (dispatch w) (fields w) = operands (dispatch w') (fields w')

theorem SameText.drop_eq {address : Nat} {w w' : Word} {l l' : Line} (hs : SameText w w')
    (h : decodeWord address w = some l) (h' : decodeWord address w' = some l') : l.drop 19 = l'.drop 19 := by
  obtain ⟨he, ho⟩ := hs
  rw [drop_of_decodeWord h, drop_of_decodeWord h', ho, he]

theorem dispatch_encode {i : Instr} (hi : i.wf = true) : dispatch (encode i) = i.entry :=
  congrArg Instr.entry (decode_encode hi)

/-- Instructions of one entry whose words give it the same operands print the same text. -/
theorem sameText_encode {i i' : Instr} (hi : i.wf = true) (hi' : i'.wf = true) (he : i.entry = i'.entry)
    (ho : operands i.entry (fields (encode i)) = operands i'.entry (fields (encode i'))) :
    SameText (encode i) (encode i') := by
  rw [SameText, dispatch_encode hi, dispatch_encode hi']
  exact ⟨he, ho⟩

/-- `SE_reg` and `SNE_reg` print registers `b` and `c` only (R69 (a)). -/
theorem sameText_reg {a : Nibble} (ha : a = 0x5#4 ∨ a = 0x9#4) (b c d d' : Nibble) :
    SameText (a ++ (b ++ (c ++ d))) (a ++ (b ++ (c ++ d'))) := by
  have ho (e : Entry) (he : (textTable e).ops = xY) :
      operands e (fields (a ++ (b ++ (c ++ d)))) = operands e (fields (a ++ (b ++ (c ++ d')))) := by
    rw [operands, operands, fields_append_nibbles, fields_append_nibbles, he]
    rfl
  rcases ha with rfl | rfl
  · exact sameText_encode (i := .seReg b c d) (i' := .seReg b c d') rfl rfl rfl (ho .SE_reg rfl)
  · exact sameText_encode (i := .sneReg b c d) (i' := .sneReg b c d') rfl rfl rfl (ho .SNE_reg rfl)

/-- Words with one `kk` and one entry that prints `kk` only have the same text. -/
theorem sameText_kk {a b b' : Nibble} {kk : Byte} (he : dispatch (a ++ (b ++ kk)) = dispatch (a ++ (b' ++ kk)))
    (hops : (textTable (dispatch (a ++ (b ++ kk)))).ops = [.byteKK]) :
    SameText (a ++ (b ++ kk)) (a ++ (b' ++ kk)) := by
  refine ⟨he, ?_⟩
  rw [← he, operands, operands, fields_append_byte, fields_append_byte, hops]
  rfl

/-- The entry of family E depends on `kk` only (R65). -/
theorem dispatch_familyE_congr (b b' : Nibble) (kk : Byte) :
    dispatch (0xE#4 ++ (b ++ kk)) = dispatch (0xE#4 ++ (b' ++ kk)) := by
  have tests (f f' : Fields) (h : f.kk = f'.kk) : (decodeFamilyE f).entry = (decodeFamilyE f').entry := by
    simp only [decodeFamilyE, apply_ite Instr.entry, h]
    rfl
  rw [dispatch, dispatch, decode_append_byte, decode_append_byte]
  exact tests _ _ rfl

/-- The entry of family F depends on `kk` only (R65). -/
theorem dispatch_familyF_congr (b b' : Nibble) (kk : Byte) :
    dispatch (0xF#4 ++ (b ++ kk)) = dispatch (0xF#4 ++ (b' ++ kk)) := by
  have tests (f f' : Fields) (h : f.kk = f'.kk) : (decodeFamilyF f).entry = (decodeFamilyF f').entry := by
    simp only [decodeFamilyF, apply_ite Instr.entry, h]
    rfl
  rw [dispatch, dispatch, decode_append_byte, decode_append_byte]
  exact tests _ _ rfl

/-- Settles O8: the ignored nibble selects nothing and is no operand of its entry. -/
theorem ignoredNibblesDoNotReachTheText : Obligations.IgnoredNibblesDoNotReachTheText := by
  unfold Obligations.IgnoredNibblesDoNotReachTheText
  intro address _ w w' l l' hw h h'
  have hs : SameText w w' := by
    rcases hw with ⟨a, b, c, d, d', ha, rfl, rfl⟩ | ⟨b, b', kk, rfl, rfl, hu⟩ | ⟨b, b', kk, rfl, rfl, hu⟩
    · exact sameText_reg ha b c d d'
    · exact sameText_kk (dispatch_familyE_congr b b' kk) (by rw [hu]; rfl)
    · exact sameText_kk (dispatch_familyF_congr b b' kk) (by rw [hu]; rfl)
  exact ⟨hs.1, hs.drop_eq h h'⟩

end Sys2Proof.Machine
end

section
/-! PROOFS. The buffer operations as whole steps (spec/40_buffer_operations.md R90, R92, R94): the exact next state of a step
that performs `init`, that loads a whole source which fits, and that answers `is_end`. -/

namespace Sys2Proof.Machine

/-- `init` is admitted in every phase, and before the first one it is the driver's own move (R90, R244). -/
theorem step_init {s : State} {rest : List Request}
    (h : s.requests = .init :: rest ∨ (s.phase = .uninit ∧ s.requests = [] ∧ rest = [])) :
    step s = .next (s.turn .init rest).initialized := by
  rcases h with hr | ⟨hp, hr, rfl⟩
  · exact step_request hr
  · exact step_driver hr (by rw [driverMove, hp])

/-- A whole source that fits is copied into an empty buffer (R92). -/
theorem step_load_bytes {s : State} {bs : List Byte} {rest : List Request} (hp : s.phase = .empty)
    (hr : s.requests = .load (.bytes bs) :: rest) (hn : bs.length ≤ 0xE00) :
    step s = .next ((s.turn (.load (.bytes bs)) rest).loadedWith (Memory.setBytes s.memory 0x200 bs) bs.length) :=
  (step_load hp hr).trans (loadSource_bytes hn)

/-- In `EMPTY` and `LOADED` a waiting `is_end` is answered (R25, R94). -/
theorem step_isEnd {s : State} {cursor : Nat} {rest : List Request} (hp : s.phase = .empty ∨ s.phase = .loaded)
    (hr : s.requests = .isEnd cursor :: rest) :
    step s = .next ((s.turn (.isEnd cursor) rest).answer (.ended (isEnd s cursor))) := by
  have admitted : admits s.phase .isEnd = true := by
    rcases hp with hp | hp
    · rw [hp]; rfl
    · rw [hp]; rfl
  rw [step_request hr]
  exact requirePhase_admitted (s := s.turn (.isEnd cursor) rest) admitted _

/-- Where an `is_end` question leaves the driver, on natural numbers (R94, R244). -/
theorem driverAfter_isEnd (s : State) (cursor : Nat) :
    driverAfter s (.isEnd cursor) =
      if cursor = s.pc.toNat then (if cursor ≥ 0x200 + s.loadedLength.toNat then .ended else .decodes) else .asks := by
  simp only [driverAfter, isEnd_iff, ge_iff_le]

/-- Settles O39: the image is read back inside the run of bytes that `load` writes, and the buffer, empty before, is zero
outside it. -/
theorem loadedImagePostcondition : Obligations.LoadedImagePostcondition := by
  unfold Obligations.LoadedImagePostcondition
  intro s bs rest hp c hn hr
  obtain ⟨-, hout, hpc, -⟩ := c.empty_values hp
  obtain ⟨-, hzeros⟩ := c.setBytes_zeros hp hn
  have hfit : 0x200 + bs.length ≤ Config.memSize := Nat.add_le_add_left hn 0x200
  refine ⟨_, step_load_bytes hp hr hn, fun i hi => hzeros i (.inl hi), fun j hj => ?_, fun i hi => hzeros i (.inr hi),
    loadedWith_loadedLength_toNat _ _ hn, hpc, hout, rfl, rfl, rfl⟩
  rw [loadedWith_memory, get_setBytes_inside c.memoryWf hfit hj, List.getElem?_eq_getElem hj]

/-- Settles O37: every value is the one `initialize` sets. -/
theorem initializeSetsEveryValue : Obligations.InitializeSetsEveryValue := by
  unfold Obligations.InitializeSetsEveryValue
  intro s rest h
  exact ⟨_, step_init h, get_empty, rfl, rfl, rfl, rfl, rfl, rfl, rfl, rfl⟩

/-- Settles O43: the answer and the driver's place are the same comparison. -/
theorem endPredicateIsAnsweredOnly : Obligations.EndPredicateIsAnsweredOnly := by
  unfold Obligations.EndPredicateIsAnsweredOnly
  intro s cursor rest hp hr
  rw [step_isEnd hp hr, ← driverAfter_isEnd]
  rfl

end Sys2Proof.Machine
end

section
/-! PROOFS. The extractor by shift and mask on natural numbers (spec/41_fetch_and_fields.md R103): each field is a slice of
the word, and the wider fields and the word are concatenations of the narrower ones. -/

namespace Sys2Proof.Laws

/-- A slice of `k` bits, read with a shift and a mask of `k` ones. -/
theorem extractLsb'_toNat_mask {n : Nat} (w : BitVec n) (start k : Nat) :
    (w.extractLsb' start k).toNat = (w.toNat >>> start) &&& (2 ^ k - 1) := by
  rw [BitVec.extractLsb'_toNat, Nat.and_two_pow_sub_one_eq_mod]

theorem fields_a_toNat_mask (w : Word) : (fields w).a.toNat = (w.toNat >>> 12) &&& 0xF := extractLsb'_toNat_mask w 12 4

theorem fields_b_toNat_mask (w : Word) : (fields w).b.toNat = (w.toNat >>> 8) &&& 0xF := extractLsb'_toNat_mask w 8 4

theorem fields_c_toNat_mask (w : Word) : (fields w).c.toNat = (w.toNat >>> 4) &&& 0xF := extractLsb'_toNat_mask w 4 4

theorem fields_d_toNat_mask (w : Word) : (fields w).d.toNat = w.toNat &&& 0xF := extractLsb'_toNat_mask w 0 4

theorem fields_kk_toNat_mask (w : Word) : (fields w).kk.toNat = w.toNat &&& 0xFF := by
  rw [fields_eq_slices]
  exact extractLsb'_toNat_mask w 0 8

theorem fields_nnn_toNat_mask (w : Word) : (fields w).nnn.toNat = w.toNat &&& 0xFFF := by
  rw [fields_eq_slices]
  exact extractLsb'_toNat_mask w 0 12

theorem fields_kk_toNat_append (w : Word) :
    (fields w).kk.toNat = ((fields w).c.toNat <<< 4) ||| (fields w).d.toNat := BitVec.toNat_append _ _

theorem fields_nnn_toNat_append (w : Word) :
    (fields w).nnn.toNat = ((fields w).b.toNat <<< 8) ||| (fields w).kk.toNat := BitVec.toNat_append _ _

theorem word_toNat_append_addr (w : Word) :
    w.toNat = ((fields w).a.toNat <<< 12) ||| (fields w).nnn.toNat :=
  (congrArg BitVec.toNat (word_eq_append_addr w)).trans (BitVec.toNat_append _ _)

theorem word_toNat_append_nibbles (w : Word) :
    w.toNat = ((fields w).a.toNat <<< 12) ||| ((fields w).b.toNat <<< 8) ||| ((fields w).c.toNat <<< 4)
      ||| (fields w).d.toNat := by
  rw [Nat.or_assoc, Nat.or_assoc, ← fields_kk_toNat_append, ← fields_nnn_toNat_append, ← word_toNat_append_addr]

/-- Settles O7: each field as a slice, the wider fields and the word as concatenations, the ranges from the widths. -/
theorem fieldExtractorIdentities : Obligations.FieldExtractorIdentities := by
  unfold Obligations.FieldExtractorIdentities
  refine ⟨fun w => ?_, rfl⟩
  have range {k : Nat} (x : BitVec k) : x.toNat ≤ 2 ^ k - 1 := Nat.le_sub_one_of_lt x.isLt
  exact ⟨fields_a_toNat_mask w, fields_b_toNat_mask w, fields_c_toNat_mask w, fields_d_toNat_mask w,
    fields_kk_toNat_append w, fields_kk_toNat_mask w, fields_nnn_toNat_append w, fields_nnn_toNat_mask w,
    word_toNat_append_nibbles w, word_toNat_append_addr w, range _, range _, range _, range _, range _, range _⟩

end Sys2Proof.Laws
end

section
/-! PROOFS. A performed decode step as a whole step (spec/41_fetch_and_fields.md R100, R102, R105, R107): it runs the word of
the two bytes at the cursor, and leaves the line `DecodeAt` gives there. -/

namespace Sys2Proof.Machine

open Sys2Proof.Laws

/-! ### The step -/

/-- A decode step before the end runs the word of the two bytes at the cursor, where both are in `memory` (R100, R102). -/
theorem step_eq_exec {s : State} {rest : List Request} (hd : DecodesNext s rest) (he : isEnd s s.pc.toNat = false)
    (hpc : s.pc.toNat + 2 ≤ 0x1000) :
    step s = exec (decode (wordOfBytes (Memory.get s.memory s.pc.toNat) (Memory.get s.memory (s.pc.toNat + 1))))
      (s.turn .decodeStep rest) := by
  rw [step_decodes_before_end hd he, decodeAtCursor_eq]
  exact if_pos hpc

/-- A decode step before the end that answers a next state has emitted the line `DecodeAt` gives at the cursor, and done
nothing else. -/
theorem step_decodes_next {s t : State} {rest : List Request} (hd : DecodesNext s rest)
    (he : isEnd s s.pc.toNat = false) (h : step s = .next t) :
    ∃ l, decodeAt s.memory s.pc.toNat = some l ∧ t = (s.turn .decodeStep rest).emitted l := by
  by_cases hpc : s.pc.toNat + 2 ≤ 0x1000
  · exact exec_fetched_next hpc ((step_eq_exec hd he hpc).symm.trans h)
  · rw [step_decodes_before_end hd he, decodeAtCursor_eq, turn_pc, if_neg hpc] at h
    cases h

/-- In a consistent state a decode step before the end completes (R70, R102). -/
theorem Consistent.step_completes {s : State} {rest : List Request} (c : Consistent s) (hd : DecodesNext s rest)
    (he : isEnd s s.pc.toNat = false) :
    ∃ l, decodeAt s.memory s.pc.toNat = some l ∧ step s = .next ((s.turn .decodeStep rest).emitted l) := by
  have hword := c.word_in_memory he
  have hlt : (s.turn .decodeStep rest).pc.toNat < 0x1000 := by rw [turn_pc]; omega
  have hstep := (step_eq_exec hd he hword).trans (exec_completes _ hlt)
  obtain ⟨l, hl, ht⟩ := step_decodes_next hd he hstep
  exact ⟨l, hl, hstep.trans (congrArg _ ht)⟩

/-- Settles O25: every instruction that completes has emitted one line. -/
theorem instructionFrame : Obligations.InstructionFrame := by
  unfold Obligations.InstructionFrame
  intro i s t h
  obtain ⟨-, rfl⟩ := exec_next h
  exact ⟨fun _ => rfl, rfl, rfl, rfl, rfl, rfl, rfl, rfl, _, rfl, rfl⟩

/-- Settles O45: the step is the performed part of `decode_step`, whose bytes decode to `i`. -/
theorem stepRunsTheDecodedInstruction : Obligations.StepRunsTheDecodedInstruction := by
  unfold Obligations.StepRunsTheDecodedInstruction
  intro s rest i hd he hbytes _
  rw [step_decodes_before_end hd he, decodeAtCursor, turn_memory, turn_pc, hbytes]
  rfl

/-! ### What the line depends on -/

/-- `DecodeAt` reads no other byte than the two at its address (R105, R109). -/
theorem decodeAt_congr {m m' : Memory} {a : Nat} (hhi : Memory.get m a = Memory.get m' a)
    (hlo : Memory.get m (a + 1) = Memory.get m' (a + 1)) : decodeAt m a = decodeAt m' a := by
  rw [decodeAt_eq, decodeAt_eq, hhi, hlo]

/-- Two decode steps at one cursor, over memories with the same two bytes there, emit the same line (R105). -/
theorem step_decodes_same_line {s s' t t' : State} {rest rest' : List Request} (hd : DecodesNext s rest)
    (hd' : DecodesNext s' rest') (he : isEnd s s.pc.toNat = false) (he' : isEnd s' s'.pc.toNat = false)
    (hpc : s.pc = s'.pc) (hhi : Memory.get s.memory s.pc.toNat = Memory.get s'.memory s.pc.toNat)
    (hlo : Memory.get s.memory (s.pc.toNat + 1) = Memory.get s'.memory (s.pc.toNat + 1))
    (h : step s = .next t) (h' : step s' = .next t') :
    ∃ l, t = (s.turn .decodeStep rest).emitted l ∧ t' = (s'.turn .decodeStep rest').emitted l := by
  obtain ⟨l, hl, rfl⟩ := step_decodes_next hd he h
  obtain ⟨l', hl', rfl⟩ := step_decodes_next hd' he' h'
  rw [decodeAt_congr hhi hlo, hpc, hl'] at hl
  cases hl
  exact ⟨l, rfl, rfl⟩

/-- Settles O46: the invariant puts both bytes into `memory`; the rest is the step that runs their word, and the line it
emits. -/
theorem fetchReadsTwoBytesBigEndian : Obligations.FetchReadsTwoBytesBigEndian := by
  unfold Obligations.FetchReadsTwoBytesBigEndian
  refine ⟨fun s rest c hd he => ?_, rfl⟩
  have hword := c.word_in_memory he
  refine ⟨by omega, ?_, ?_, fun m t t' hhi hlo h h' => ?_⟩
  · rw [step_eq_exec hd he hword, wordOfBytes_ofNat]
    rfl
  · obtain ⟨l, -, hstep⟩ := c.step_completes hd he
    exact ⟨_, hstep, rfl⟩
  · obtain ⟨l, rfl, rfl⟩ :=
      step_decodes_same_line (s' := { s with memory := m }) hd hd he he rfl hhi.symm hlo.symm h h'
    exact ⟨rfl, rfl, rfl⟩

/-- The columns of a line after the address, which the word alone gives (R190). -/
def afterAddress (w : Word) : Text :=
  spaces 5 ++ ['0', 'x'] ++ hexLc w.toNat 4 ++ spaces 4 ++ lineTail (dispatch w) (operands (dispatch w) (fields w)) ++ ['\n']

/-- A line is its mark, its address in three digits, and the columns that the word alone gives (R105, R190). -/
theorem decodeWord_eq_some {address : Nat} {w : Word} {l : Line} (h : decodeWord address w = some l) :
    l = '@' :: (hexLc address 3 ++ afterAddress w) := by
  rw [decodeWord, lineOf_eq] at h
  split at h
  · cases h
    simp [formatLine, mkRecord, lineHead, afterAddress]
  · cases h

/-- Only columns 1 to 3 of a line depend on the address (R105). -/
theorem decodeWord_drop_four {address : Nat} {w : Word} {l : Line} (h : decodeWord address w = some l) :
    l.drop 4 = afterAddress w := by
  rw [decodeWord_eq_some h]
  exact List.drop_left' (hexLc_length address 3)

/-- Settles O50: both steps emit `DecodeAt` of the same two bytes, and the address enters a line as its three digits. -/
theorem decodingDependsOnAddressAndBytesAlone : Obligations.DecodingDependsOnAddressAndBytesAlone := by
  unfold Obligations.DecodingDependsOnAddressAndBytesAlone
  refine ⟨fun s s' t t' rest rest' hd hd' he he' hpc hhi hlo h h' => ?_, fun w a a' l l' h h' => ⟨?_, ?_⟩⟩
  · obtain ⟨l, rfl, rfl⟩ := step_decodes_same_line hd hd' he he' hpc hhi hlo h h'
    exact ⟨l, rfl, rfl⟩
  · rw [decodeWord_eq_some h, decodeWord_eq_some h']
    rfl
  · rw [decodeWord_drop_four h, decodeWord_drop_four h']

end Sys2Proof.Machine
end

section
/-! PROOFS. A word placed where the next step fetches (spec/41_fetch_and_fields.md R100, R102; log entry 8): its place lies in
`memory` and before the end of the loaded region, and holds the word's two bytes. -/

namespace Sys2Proof.Machine

open Sys2Proof.Laws

/-- A word fits at its place. -/
theorem fetchPlace_fits (s : State) : fetchPlace s + 2 ≤ 0x1000 := by
  unfold fetchPlace
  split
  · assumption
  · decide

theorem placeWord_pc_toNat (s : State) (w : Word) : (placeWord s w).pc.toNat = fetchPlace s := by
  have hfits := fetchPlace_fits s
  exact Nat.mod_eq_of_lt (show fetchPlace s < 2 ^ 16 by omega)

/-- The two bytes at the place of a word are the word's, high byte first (R42). -/
theorem placeWord_fetched {s : State} (hm : s.memory.wf = true) (w : Word) :
    wordOfBytes (Memory.get (placeWord s w).memory (fetchPlace s)) (Memory.get (placeWord s w).memory (fetchPlace s + 1))
      = w := by
  have hfit : fetchPlace s + [highByte w, lowByte w].length ≤ Config.memSize := fetchPlace_fits s
  have hhi : Memory.get (placeWord s w).memory (fetchPlace s) = highByte w :=
    get_setBytes_inside (j := 0) hm hfit (by decide : 0 < 2)
  have hlo : Memory.get (placeWord s w).memory (fetchPlace s + 1) = lowByte w :=
    get_setBytes_inside (j := 1) hm hfit (by decide : 1 < 2)
  rw [hhi, hlo, wordOfBytes_bytes]

/-- A placed word lengthens the loaded region only when it does not lie inside it. -/
theorem placeWord_loadedLength (s : State) (w : Word) :
    (placeWord s w).loadedLength =
      if fetchPlace s + 2 ≤ 0x200 + s.loadedLength.toNat then s.loadedLength
      else BitVec.ofNat 16 (fetchPlace s + 2 - 0x200) := rfl

/-- The loaded region reaches past the place of the word (R94). -/
theorem placeWord_before_end (s : State) (w : Word) : isEnd (placeWord s w) (fetchPlace s) = false := by
  have hfits := fetchPlace_fits s
  rw [Bool.eq_false_iff, Ne, isEnd_iff, placeWord_loadedLength]
  split
  · omega
  · rw [BitVec.toNat_ofNat, Nat.mod_eq_of_lt (show fetchPlace s + 2 - 0x200 < 2 ^ 16 by omega)]
    omega

/-- The next step after a placement is the placed request (R244). -/
theorem placeWord_decodesNext (s : State) (w : Word) : DecodesNext (placeWord s w) s.requests := ⟨.inr rfl, .inl rfl⟩

/-- The step after a placement runs the placed word. -/
theorem step_placeWord {s : State} (hm : s.memory.wf = true) (w : Word) :
    step (placeWord s w) = exec (decode w) ((placeWord s w).turn .decodeStep s.requests) := by
  have hpc := placeWord_pc_toNat s w
  rw [step_eq_exec (placeWord_decodesNext s w) (by rw [hpc]; exact placeWord_before_end s w)
    (by rw [hpc]; exact fetchPlace_fits s), hpc, placeWord_fetched hm]

theorem withFetchWord_eq_placeWord {s : State} {w : Nat} (hw : w < 2 ^ 16) :
    s.withFetchWord 16 w = placeWord s (BitVec.ofNat 16 w) := by
  rw [State.withFetchWord, Nat.mod_eq_of_lt hw]

/-- Settles O58: the placed word is fetched and run, and it completes because its place is in `memory`. -/
theorem placedWordIsTheNextInstruction : Obligations.PlacedWordIsTheNextInstruction := by
  unfold Obligations.PlacedWordIsTheNextInstruction
  intro s w hm hw
  rw [withFetchWord_eq_placeWord hw]
  have hstep := step_placeWord hm (BitVec.ofNat 16 w)
  refine ⟨hstep, _, hstep.trans (exec_completes _ ?_)⟩
  rw [turn_pc, placeWord_pc_toNat]
  have hfits := fetchPlace_fits s
  omega

end Sys2Proof.Machine
end

section
/-! PROOFS. The driver's run on a whole image (spec/41_fetch_and_fields.md R108, spec/70_reset_and_hazards.md R244, R245): a
predicate that holds whenever the driver is about to ask `is_end(pc)`, kept by each round of question and decode step. -/

namespace Sys2Proof.Machine

open Sys2Proof.Laws

/-- The number of words of an image, the padded last byte of an odd one included (R108, R248). -/
abbrev wordCount (bs : List Byte) : Nat := (bs.length + 1) / 2

/-- The image `bs` is loaded and the driver is at the head of its loop: no request waits and it asks `is_end(pc)` next. -/
structure LoopHead (bs : List Byte) (s : State) : Prop where
  consistent : Consistent s
  phase : s.phase = .loaded
  requests : s.requests = []
  driver : s.driver = .asks
  memory : s.memory = Memory.setBytes [] 0x200 bs
  length : s.loadedLength.toNat = bs.length

/-! ### Entering the loop -/

/-- After `initialize` and `load` the driver is at the head of its loop and nothing is printed. -/
theorem loopHead_of_driverScript {s : State} {bs : List Byte} (hn : bs.length ≤ 0xE00)
    (hr : s.requests = driverScript (.bytes bs)) :
    ∃ t, Host.Core.run Sys2Proof.core 2 s = .next t ∧ LoopHead bs t ∧ t.out.length = 0 := by
  let u := (s.turn .init [.load (.bytes bs)]).initialized
  have hinit : step s = .next u := step_init (.inl hr)
  have hload := step_load_bytes (s := u) rfl rfl hn
  refine ⟨_, (run_add 1 (run_one hinit)).trans (run_one hload), ?_, rfl⟩
  exact {
    consistent := ((initialized_consistent rfl : Consistent u).turn _ _).loadedWith rfl rfl hn
    phase := rfl
    requests := rfl
    driver := rfl
    memory := rfl
    length := loadedWith_loadedLength_toNat _ _ hn }

/-! ### One round -/

/-- With no request waiting, a driver at the head of its loop asks `is_end(pc)` (R244). -/
theorem LoopHead.step_asks {bs : List Byte} {s : State} (h : LoopHead bs s) :
    step s = .next ((s.turn (.isEnd s.pc.toNat) []).answer (.ended (isEnd s s.pc.toNat))) := by
  have hmove : driverMove s = some (.isEnd s.pc.toNat) := by rw [driverMove, h.phase, h.driver]
  rw [step_driver h.requests hmove]
  exact requirePhase_admitted (s := s.turn (.isEnd s.pc.toNat) []) (by rw [turn_phase, h.phase]; rfl) _

/-- The end is reached exactly when every word is printed (R22, R108). -/
theorem LoopHead.isEnd_pc_iff {bs : List Byte} {s : State} (h : LoopHead bs s) :
    isEnd s s.pc.toNat = true ↔ wordCount bs ≤ s.out.length := by
  rw [isEnd_iff, h.length, h.consistent.cursor, wordCount]
  omega

/-- Before the last word, a question and a decode step lead back to the head of the loop with one line more. -/
theorem LoopHead.round {bs : List Byte} {s : State} (h : LoopHead bs s) (hk : s.out.length < wordCount bs) :
    ∃ t, Host.Core.run Sys2Proof.core 2 s = .next t ∧ LoopHead bs t ∧ t.out.length = s.out.length + 1 := by
  have he : isEnd s s.pc.toNat = false := by
    rw [Bool.eq_false_iff, Ne, h.isEnd_pc_iff]
    exact Nat.not_le_of_lt hk
  let u := (s.turn (.isEnd s.pc.toNat) []).answer (.ended (isEnd s s.pc.toNat))
  have hu : Consistent u := (h.consistent.turn _ _).answer _
  have hdriver : u.driver = .decodes := (driverAfter_isEnd_pc s).trans (if_neg (Bool.eq_false_iff.mp he))
  obtain ⟨l, hl, hstep⟩ := hu.step_completes (rest := []) ⟨.inr h.phase, .inr ⟨rfl, rfl, hdriver⟩⟩ he
  refine ⟨_, (run_add 1 (run_one h.step_asks)).trans (run_one hstep), ?_, List.length_append⟩
  exact {
    consistent := (hu.turn _ _).emitted rfl he hl
    phase := h.phase
    requests := rfl
    driver := rfl
    memory := h.memory
    length := h.length }

/-- The remaining words are printed in two steps each. -/
theorem LoopHead.rounds {bs : List Byte} {n : Nat} {s : State} (h : LoopHead bs s)
    (hn : s.out.length + n = wordCount bs) :
    ∃ t, Host.Core.run Sys2Proof.core (2 * n) s = .next t ∧ LoopHead bs t ∧ t.out.length = wordCount bs := by
  induction n generalizing s with
  | zero => exact ⟨s, rfl, h, hn⟩
  | succ n ih =>
    obtain ⟨u, hrun, hu, hout⟩ := h.round (by omega)
    obtain ⟨t, hrest, ht, hall⟩ := ih hu (by omega)
    refine ⟨t, ?_, ht, hall⟩
    rw [Nat.mul_succ, Nat.add_comm, run_add _ hrun, hrest]

/-! ### The end of the loop -/

/-- A driver that has terminated with status zero stays as it is (R244). -/
theorem step_ended {s : State} (hp : s.phase = .loaded) (hr : s.requests = []) (hd : s.driver = .ended) :
    step s = .next s := by
  rw [step_over hr (driverMove_none.mpr (.inr ⟨.inr hp, hd⟩)), runOver, hp]
  rfl

/-- The byte of an image at an offset from the load origin, 0x00 past its end (R92, R248). -/
theorem get_image {bs : List Byte} (hn : bs.length ≤ 0xE00) (j : Nat) :
    Memory.get (Memory.setBytes [] 0x200 bs) (0x200 + j) = bs.getD j 0x00#8 := by
  have hfit : 0x200 + bs.length ≤ Config.memSize := Nat.add_le_add_left hn 0x200
  rw [get_setBytes _ rfl hfit, if_pos (Nat.le_add_right _ _), Nat.add_sub_cancel_left, get_empty]

/-- Line `k` of the loop is the image's word `k` at its address (R109, R248). -/
theorem LoopHead.line {bs : List Byte} {s : State} (h : LoopHead bs s) (hn : bs.length ≤ 0xE00) {k : Nat}
    (hk : k < s.out.length) :
    s.out[k]? = decodeWord (0x200 + 2 * k)
      (BitVec.ofNat 16 ((bs.getD (2 * k) 0x00#8).toNat * 256 + (bs.getD (2 * k + 1) 0x00#8).toNat)) := by
  have hfit : 0x200 + 2 * k + 2 ≤ 0x1000 := by
    have hcursor := h.consistent.cursor
    have hbound := h.consistent.cursorBound
    rw [h.length] at hbound
    omega
  rw [h.consistent.lines k hk, decodeAt_eq, if_pos hfit, h.memory, Nat.add_assoc, get_image hn, get_image hn,
    wordOfBytes_ofNat]

/-- Settles O55: enter the loop, print the words two steps each, and ask once more; the driver is then told the end. -/
theorem runPrintsTheWholeImage : Obligations.RunPrintsTheWholeImage := by
  unfold Obligations.RunPrintsTheWholeImage
  intro s bs hn hr
  obtain ⟨u, hload, hu, hnone⟩ := loopHead_of_driverScript hn hr
  obtain ⟨v, hrounds, hv, hall⟩ := hu.rounds (n := wordCount bs) (by omega)
  have hend : isEnd v v.pc.toNat = true := hv.isEnd_pc_iff.mpr hall.ge
  let t := (v.turn (.isEnd v.pc.toNat) []).answer (.ended (isEnd v v.pc.toNat))
  have hdriver : t.driver = .ended := (driverAfter_isEnd_pc v).trans (if_pos hend)
  have hstays : ∀ n, Host.Core.run Sys2Proof.core n t = .next t := run_stays (step_ended hv.phase rfl hdriver)
  refine ⟨t, fun n => ?_, hdriver, hv.phase, ?_, ⟨.inl hv.phase, hend⟩, hall, fun k hk => hv.line hn (hall ▸ hk)⟩
  · rw [show 3 + 2 * wordCount bs + n = 2 + (2 * wordCount bs + (1 + n)) by omega, run_add _ hload, run_add _ hrounds,
      run_add _ (run_one hv.step_asks), hstays]
  · exact hv.consistent.cursor.trans (by rw [hall])

end Sys2Proof.Machine
end

section
/-! PROOFS. The entries of family 0 (spec/42_family_0.md R110, R111, R112): the rows whose mask is the whole word, and the
text of an entry whose only operand is `nnn`. -/

namespace Sys2Proof.Machine

open Sys2Proof.Laws

/-- A row of priority 0 whose mask takes part with all sixteen bits belongs to one word, its code (R66). -/
theorem dispatch_eq_iff_of_full_mask {e : Entry} (hp : e.row.priority = 0) (hm : e.row.mask = BitVec.allOnes 16) (w : Word) :
    dispatch w = e ↔ w = e.row.code := by
  have masked : w &&& e.row.mask = w := by rw [hm, BitVec.and_allOnes]
  constructor
  · rintro rfl
    exact masked.symm.trans (match_of_dispatch w)
  · exact fun h => dispatch_of_match hp (masked.trans h)

/-- Outside the two selectors, family 0 decodes to its fall-back row (R112). -/
theorem decode_family0_sys {nnn : Addr} (hcls : nnn ≠ 0x0E0#12) (hret : nnn ≠ 0x0EE#12) :
    decode (0x0#4 ++ nnn) = .sys nnn := by
  rw [decode_family0, if_neg hcls, if_neg hret]

/-- The text of an entry whose only operand is the address `nnn` (R191, R195). -/
theorem lineTail_addrNNN {e : Entry} (he : (textTable e).ops = [.addrNNN]) (a : Nibble) (nnn : Addr) :
    lineTail e (operands e (fields (a ++ nnn)))
      = (textTable e).mnemonic ++ spaces (8 - (textTable e).mnemonic.length) ++ '@' :: hexLc nnn.toNat 3 := by
  rw [operands, fields_append_addr, he]
  rfl

/-- Settles O9: the row's mask is the whole word, the entry has no operands, and every other word of the family but
`0x00EE` is the fall-back row's. -/
theorem clearScreenIsOneWord : Obligations.ClearScreenIsOneWord := by
  unfold Obligations.ClearScreenIsOneWord
  refine ⟨dispatch_eq_iff_of_full_mask (e := .CLS) rfl rfl, decode_of_encode_eq rfl rfl, prints_of_tail rfl,
    fun nnn hcls hret => ?_, rfl⟩
  rw [dispatch, decode_family0_sys hcls hret]
  rfl

/-- Settles O10: the row's mask is the whole word, and the entry has no operands. -/
theorem returnIsOneWord : Obligations.ReturnIsOneWord := by
  unfold Obligations.ReturnIsOneWord
  exact ⟨dispatch_eq_iff_of_full_mask (e := .RET) rfl rfl, decode_of_encode_eq rfl rfl, prints_of_tail rfl⟩

/-- Settles O11: the fall-back row keeps the whole `nnn`, and its only operand prints it. -/
theorem systemCallPrintsItsAddress : Obligations.SystemCallPrintsItsAddress := by
  unfold Obligations.SystemCallPrintsItsAddress
  exact fun nnn => ⟨decode_family0_sys, prints_of_tail (lineTail_addrNNN rfl 0x0#4 nnn)⟩

end Sys2Proof.Machine
end

section
/-! PROOFS. The twelve single-entry primary nibbles (spec/43_primary_single.md R120 to R131): the text of each operand shape
of `TEXT_TABLE` they use, and each entry as the pattern of its word together with that text. -/

namespace Sys2Proof.Machine

open Sys2Proof.Laws

/-! ### The text of an operand shape -/

/-- An entry that takes operands prints its token padded to the operand column, then the operands (R191, R197). -/
theorem lineTail_of_ops {e : Entry} {t : OperandTemplate} {ts : List OperandTemplate} (he : (textTable e).ops = t :: ts)
    (f : Fields) :
    lineTail e (operands e f) = (textTable e).mnemonic ++ spaces (8 - (textTable e).mnemonic.length)
      ++ operandsText (instantiate f t :: ts.map (instantiate f)) := by
  rw [operands, he]
  rfl

/-- The text of an entry whose operands are a literal token and the address `nnn` (R195). -/
theorem lineTail_lit_addrNNN {e : Entry} {token : Text} (he : (textTable e).ops = [.lit token, .addrNNN]) (a : Nibble)
    (nnn : Addr) :
    lineTail e (operands e (fields (a ++ nnn)))
      = (textTable e).mnemonic ++ spaces (8 - (textTable e).mnemonic.length) ++ (token ++ ' ' :: '@' :: hexLc nnn.toNat 3) := by
  rw [lineTail_of_ops he, fields_append_addr]
  rfl

/-- The text of an entry whose operands are register `b` and the byte `kk` (R195). -/
theorem lineTail_regB_byteKK {e : Entry} (he : (textTable e).ops = [.regB, .byteKK]) (a b : Nibble) (kk : Byte) :
    lineTail e (operands e (fields (a ++ (b ++ kk))))
      = (textTable e).mnemonic ++ spaces (8 - (textTable e).mnemonic.length)
        ++ ('V' :: hexUc b.toNat 1 ++ [' ', '0', 'x'] ++ hexLc kk.toNat 2) := by
  rw [lineTail_of_ops he, fields_append_byte]
  rfl

/-- The text of an entry whose operands are registers `b` and `c` (R195). -/
theorem lineTail_regB_regC {e : Entry} (he : (textTable e).ops = [.regB, .regC]) (a b c d : Nibble) :
    lineTail e (operands e (fields (a ++ (b ++ (c ++ d)))))
      = (textTable e).mnemonic ++ spaces (8 - (textTable e).mnemonic.length)
        ++ ('V' :: hexUc b.toNat 1 ++ [' ', 'V'] ++ hexUc c.toNat 1) := by
  rw [lineTail_of_ops he, fields_append_nibbles]
  rfl

/-- The text of an entry whose operands are registers `b` and `c` and the nibble `d` (R195). -/
theorem lineTail_regB_regC_nibD {e : Entry} (he : (textTable e).ops = [.regB, .regC, .nibD]) (a b c d : Nibble) :
    lineTail e (operands e (fields (a ++ (b ++ (c ++ d)))))
      = (textTable e).mnemonic ++ spaces (8 - (textTable e).mnemonic.length)
        ++ ('V' :: hexUc b.toNat 1 ++ [' ', 'V'] ++ hexUc c.toNat 1 ++ [' ', '0', 'x'] ++ hexLc d.toNat 1) := by
  rw [lineTail_of_ops he, fields_append_nibbles]
  rfl

/-! ### The entries -/

/-- Settles O13: the word is the pattern of `JP_addr`, whose only operand prints `nnn`; the target is not an input of the
next cursor. -/
theorem jumpIsPrintedNotFollowed : Obligations.JumpIsPrintedNotFollowed := by
  unfold Obligations.JumpIsPrintedNotFollowed
  exact ⟨fun nnn => ⟨decode_of_encode_eq rfl rfl, prints_of_tail (lineTail_addrNNN rfl 0x1#4 nnn)⟩, rfl⟩

/-- Settles O14: the words are the patterns of the three entries; `CALL` prints `nnn` alone, the other two after their
literal. -/
theorem addressEntriesPrintTheirAddress : Obligations.AddressEntriesPrintTheirAddress := by
  unfold Obligations.AddressEntriesPrintTheirAddress
  exact fun nnn => ⟨decode_of_encode_eq rfl rfl, prints_of_tail (lineTail_addrNNN rfl 0x2#4 nnn),
    decode_of_encode_eq rfl rfl, prints_of_tail (lineTail_lit_addrNNN (token := ['I']) rfl 0xA#4 nnn),
    decode_of_encode_eq rfl rfl, prints_of_tail (lineTail_lit_addrNNN (token := ['V', '0']) rfl 0xB#4 nnn)⟩

/-- Settles O15: the word is the pattern of `LD_byte`, whose operands are register and byte. -/
theorem loadByteIsPrinted : Obligations.LoadByteIsPrinted := by
  unfold Obligations.LoadByteIsPrinted
  exact ⟨fun b kk => ⟨decode_of_encode_eq rfl rfl, prints_of_tail (lineTail_regB_byteKK rfl 0x6#4 b kk)⟩, rfl, rfl⟩

/-- Settles O16: the words are the patterns of the four entries, each with register and byte as operands. -/
theorem registerByteEntriesPrintBoth : Obligations.RegisterByteEntriesPrintBoth := by
  unfold Obligations.RegisterByteEntriesPrintBoth
  exact fun b kk => ⟨decode_of_encode_eq rfl rfl, prints_of_tail (lineTail_regB_byteKK rfl 0x3#4 b kk),
    decode_of_encode_eq rfl rfl, prints_of_tail (lineTail_regB_byteKK rfl 0x4#4 b kk),
    decode_of_encode_eq rfl rfl, prints_of_tail (lineTail_regB_byteKK rfl 0x7#4 b kk),
    decode_of_encode_eq rfl rfl, prints_of_tail (lineTail_regB_byteKK rfl 0xC#4 b kk)⟩

/-- Settles O17: the words are the patterns of the two entries for every `d`, which is no operand of theirs. -/
theorem registerPairSkipsIgnoreTheLowNibble : Obligations.RegisterPairSkipsIgnoreTheLowNibble := by
  unfold Obligations.RegisterPairSkipsIgnoreTheLowNibble
  exact fun b c d => ⟨decode_of_encode_eq rfl rfl, prints_of_tail (lineTail_regB_regC rfl 0x5#4 b c d),
    decode_of_encode_eq rfl rfl, prints_of_tail (lineTail_regB_regC rfl 0x9#4 b c d)⟩

/-! ### A step that runs one of them -/

/-- A decode step before the end on the bytes of an instruction records the line the instruction prints (R100). -/
theorem step_prints {s : State} {rest : List Request} {i : Instr} {w : Word} {tail : Text} (hd : DecodesNext s rest)
    (he : isEnd s s.pc.toNat = false) (hpc : s.pc.toNat + 2 ≤ 0x1000)
    (hi : decode (wordOfBytes (Memory.get s.memory s.pc.toNat) (Memory.get s.memory (s.pc.toNat + 1))) = i)
    (hp : Prints i w tail) : step s = .next ((s.turn .decodeStep rest).emitted (lineText s.pc.toNat w tail)) := by
  rw [step_eq_exec hd he hpc, hi]
  exact hp (s.turn .decodeStep rest) (by rw [turn_pc]; omega)

/-- Settles O18: the word is the pattern of `DRW`, and in scenario 5 the two bytes at the cursor are such a word, the last
of the image. -/
theorem drawSpriteIsPrinted : Obligations.DrawSpriteIsPrinted := by
  unfold Obligations.DrawSpriteIsPrinted
  have prints (b c d : Nibble) := prints_of_tail (i := .drw b c d) (lineTail_regB_regC_nibD rfl 0xD#4 b c d)
  refine ⟨fun b c d => ⟨decode_of_encode_eq rfl rfl, prints b c d⟩, ?_⟩
  have fetched : decode (wordOfBytes 0xD1#8 0x2F#8) = .drw 0x1#4 0x2#4 0xF#4 := decode_of_encode_eq rfl rfl
  exact ⟨_, step_prints ⟨.inr rfl, .inl rfl⟩ rfl (by decide) fetched (prints 0x1#4 0x2#4 0xF#4), rfl, rfl⟩

end Sys2Proof.Machine
end

section
/-! PROOFS. Family 8 (spec/44_family_8.md R140 to R149): its nine selectors as patterns of their words with both registers as
operands, and its fall-back row as what every other `d` selects. -/

namespace Sys2Proof.Machine

open Sys2Proof.Laws

/-- Settles O19: the words are the patterns of the nine entries, each with both registers as operands. -/
theorem familyEightEntriesPrintBothRegisters : Obligations.FamilyEightEntriesPrintBothRegisters := by
  unfold Obligations.FamilyEightEntriesPrintBothRegisters
  exact fun b c => ⟨decode_of_encode_eq rfl rfl, prints_of_tail (lineTail_regB_regC rfl 0x8#4 b c 0x0#4),
    decode_of_encode_eq rfl rfl, prints_of_tail (lineTail_regB_regC rfl 0x8#4 b c 0x1#4),
    decode_of_encode_eq rfl rfl, prints_of_tail (lineTail_regB_regC rfl 0x8#4 b c 0x2#4),
    decode_of_encode_eq rfl rfl, prints_of_tail (lineTail_regB_regC rfl 0x8#4 b c 0x3#4),
    decode_of_encode_eq rfl rfl, prints_of_tail (lineTail_regB_regC rfl 0x8#4 b c 0x4#4),
    decode_of_encode_eq rfl rfl, prints_of_tail (lineTail_regB_regC rfl 0x8#4 b c 0x5#4),
    decode_of_encode_eq rfl rfl, prints_of_tail (lineTail_regB_regC rfl 0x8#4 b c 0x6#4),
    decode_of_encode_eq rfl rfl, prints_of_tail (lineTail_regB_regC rfl 0x8#4 b c 0x7#4),
    decode_of_encode_eq rfl rfl, prints_of_tail (lineTail_regB_regC rfl 0x8#4 b c 0xE#4)⟩

/-! ### The fall-back row -/

/-- The undefined values of `d`, listed (R149). -/
theorem not_mem_family8Selectors_iff :
    ∀ d : Nibble, d ∉ family8Selectors ↔ d ∈ [0x8#4, 0x9#4, 0xA#4, 0xB#4, 0xC#4, 0xD#4, 0xF#4] := by decide

/-- Only one constructor belongs to the entry `UNK_8`. -/
theorem eq_unk8_of_entry {i : Instr} (h : i.entry = .UNK_8) : ∃ b c d, i = .unk8 b c d := by
  cases i with
  | unk8 b c d => exact ⟨b, c, d, rfl⟩
  | _ => cases h

/-- A word belongs to `UNK_8` exactly when `a` is 8 and `d` is no selector: it is then the pattern of a well-formed
instruction of that entry (R75, R149). -/
theorem dispatch_eq_unk8_iff (w : Word) :
    dispatch w = .UNK_8 ↔ (fields w).a = 0x8#4 ∧ (fields w).d ∉ family8Selectors := by
  constructor
  · intro h
    obtain ⟨b, c, d, hi⟩ := eq_unk8_of_entry h
    have hwf : (Instr.unk8 b c d).wf = true := hi ▸ decode_wf w
    have hw : w = 0x8#4 ++ (b ++ (c ++ d)) := (encode_decode w).symm.trans (congrArg encode hi)
    rw [hw, fields_append_nibbles]
    exact ⟨rfl, of_decide_eq_true hwf⟩
  · exact fun ⟨ha, hd⟩ => dispatch_unk8 ha hd

/-- Settles O20: the seven values are those that are no selector, and the entry's operands are both registers. -/
theorem familyEightUnknownRecordIsNormalOutput : Obligations.FamilyEightUnknownRecordIsNormalOutput := by
  unfold Obligations.FamilyEightUnknownRecordIsNormalOutput
  refine ⟨fun b c d hd => ?_, fun w => ?_, fun b c d => prints_of_tail (lineTail_regB_regC rfl 0x8#4 b c d), rfl⟩
  · have hwf : (Instr.unk8 b c d).wf = true := decide_eq_true ((not_mem_family8Selectors_iff d).mpr hd)
    exact decode_of_encode_eq rfl hwf
  · rw [dispatch_eq_unk8_iff, not_mem_family8Selectors_iff]

end Sys2Proof.Machine
end

section
/-! PROOFS. Family E (spec/45_family_e.md R160, R161, R162): the text of an entry whose only operand is register `b` or the
byte `kk`, and the fall-back row, which keeps the byte outside the two selectors. -/

namespace Sys2Proof.Machine

open Sys2Proof.Laws

/-- The text of an entry whose only operand is register `b` (R195). -/
theorem lineTail_regB {e : Entry} (he : (textTable e).ops = [.regB]) (a b : Nibble) (kk : Byte) :
    lineTail e (operands e (fields (a ++ (b ++ kk))))
      = (textTable e).mnemonic ++ spaces (8 - (textTable e).mnemonic.length) ++ 'V' :: hexUc b.toNat 1 := by
  rw [lineTail_of_ops he, fields_append_byte]
  rfl

/-- The text of an entry whose only operand is the byte `kk` (R195). -/
theorem lineTail_byteKK {e : Entry} (he : (textTable e).ops = [.byteKK]) (a b : Nibble) (kk : Byte) :
    lineTail e (operands e (fields (a ++ (b ++ kk))))
      = (textTable e).mnemonic ++ spaces (8 - (textTable e).mnemonic.length) ++ '0' :: 'x' :: hexLc kk.toNat 2 := by
  rw [lineTail_of_ops he, fields_append_byte]
  rfl

/-- Outside its two selectors, family E decodes to its fall-back row (R162). -/
theorem decode_familyE_unkE {kk : Byte} (hskp : kk ≠ 0x9E#8) (hsknp : kk ≠ 0xA1#8) (b : Nibble) :
    decode (0xE#4 ++ (b ++ kk)) = .unkE b kk := by
  have hwf : (Instr.unkE b kk).wf = true := decide_eq_true (by simp [familyESelectors, hskp, hsknp])
  exact decode_of_encode_eq rfl hwf

/-- Settles O21: the words are the patterns of the two entries, whose only operand is register `b`. -/
theorem keySkipsArePrintedOnly : Obligations.KeySkipsArePrintedOnly := by
  unfold Obligations.KeySkipsArePrintedOnly
  exact fun b => ⟨decode_of_encode_eq rfl rfl, prints_of_tail (lineTail_regB rfl 0xE#4 b 0x9E#8),
    decode_of_encode_eq rfl rfl, prints_of_tail (lineTail_regB rfl 0xE#4 b 0xA1#8)⟩

/-- Settles O22: every byte that is no selector falls through to the fall-back row, whose only operand is that byte. -/
theorem familyEUnknownRecordCarriesTheByte : Obligations.FamilyEUnknownRecordCarriesTheByte := by
  unfold Obligations.FamilyEUnknownRecordCarriesTheByte
  exact fun b kk => ⟨fun hskp hsknp => decode_familyE_unkE hskp hsknp b,
    prints_of_tail (lineTail_byteKK rfl 0xE#4 b kk)⟩

end Sys2Proof.Machine
end

section
/-! PROOFS. Family F (spec/46_family_f.md R170 to R179): the text of an entry whose operands are register `b` and a literal
token, in either order, and the fall-back row, which keeps the byte outside the nine selectors. -/

namespace Sys2Proof.Machine

open Sys2Proof.Laws

/-- The text of an entry whose operands are register `b` and a literal token (R195). -/
theorem lineTail_regB_lit {e : Entry} {token : Text} (he : (textTable e).ops = [.regB, .lit token]) (a b : Nibble)
    (kk : Byte) :
    lineTail e (operands e (fields (a ++ (b ++ kk))))
      = (textTable e).mnemonic ++ spaces (8 - (textTable e).mnemonic.length)
        ++ ('V' :: hexUc b.toNat 1 ++ ' ' :: token) := by
  rw [lineTail_of_ops he, fields_append_byte]
  rfl

/-- The text of an entry whose operands are a literal token and register `b` (R195). -/
theorem lineTail_lit_regB {e : Entry} {token : Text} (he : (textTable e).ops = [.lit token, .regB]) (a b : Nibble)
    (kk : Byte) :
    lineTail e (operands e (fields (a ++ (b ++ kk))))
      = (textTable e).mnemonic ++ spaces (8 - (textTable e).mnemonic.length)
        ++ (token ++ ' ' :: 'V' :: hexUc b.toNat 1) := by
  rw [lineTail_of_ops he, fields_append_byte]
  rfl

/-- Outside its nine selectors, family F decodes to its fall-back row (R179). -/
theorem decode_familyF_unkF {kk : Byte} (h : kk ∉ familyFSelectors) (b : Nibble) :
    decode (0xF#4 ++ (b ++ kk)) = .unkF b kk := by
  have hwf : (Instr.unkF b kk).wf = true := decide_eq_true h
  exact decode_of_encode_eq rfl hwf

/-- Settles O23: the words are the patterns of the nine entries; three rows (R170, R171, R178) print their literal after
the register, the other six before it. -/
theorem familyFEntriesPrintRegisterAndLiteral : Obligations.FamilyFEntriesPrintRegisterAndLiteral := by
  unfold Obligations.FamilyFEntriesPrintRegisterAndLiteral
  exact fun b => ⟨
    decode_of_encode_eq rfl rfl, prints_of_tail (lineTail_regB_lit (token := ['D', 'T']) rfl 0xF#4 b 0x07#8),
    decode_of_encode_eq rfl rfl, prints_of_tail (lineTail_regB_lit (token := ['K']) rfl 0xF#4 b 0x0A#8),
    decode_of_encode_eq rfl rfl, prints_of_tail (lineTail_lit_regB (token := ['D', 'T']) rfl 0xF#4 b 0x15#8),
    decode_of_encode_eq rfl rfl, prints_of_tail (lineTail_lit_regB (token := ['S', 'T']) rfl 0xF#4 b 0x18#8),
    decode_of_encode_eq rfl rfl, prints_of_tail (lineTail_lit_regB (token := ['I']) rfl 0xF#4 b 0x1E#8),
    decode_of_encode_eq rfl rfl, prints_of_tail (lineTail_lit_regB (token := ['F']) rfl 0xF#4 b 0x29#8),
    decode_of_encode_eq rfl rfl, prints_of_tail (lineTail_lit_regB (token := ['B']) rfl 0xF#4 b 0x33#8),
    decode_of_encode_eq rfl rfl, prints_of_tail (lineTail_lit_regB (token := ['[', 'I', ']']) rfl 0xF#4 b 0x55#8),
    decode_of_encode_eq rfl rfl, prints_of_tail (lineTail_regB_lit (token := ['[', 'I', ']']) rfl 0xF#4 b 0x65#8)⟩

/-- Settles O24: every byte that is no selector falls through to the fall-back row, whose only operand is that byte. -/
theorem familyFUnknownRecordCarriesTheByte : Obligations.FamilyFUnknownRecordCarriesTheByte := by
  unfold Obligations.FamilyFUnknownRecordCarriesTheByte
  exact fun b kk => ⟨fun h => decode_familyF_unkF h b, prints_of_tail (lineTail_byteKK rfl 0xF#4 b kk)⟩

end Sys2Proof.Machine
end

section
/-! PROOFS. The numbers, the operand text and the table of spec/47_line_format.md (R190, R192, R197, R199): each digit at its
place, the operand texts as one joined list, and the counts of `TEXT_TABLE`. -/

namespace Sys2Proof.Machine

/-! ### Digits -/

/-- The `k`-th digit from the right is the alphabet's digit of `(v >> 4k) & 0xF` (R192). -/
theorem getElem?_hexText {ds : List Char} (hds : ds.length = 16) (v : Nat) {n k : Nat} (hk : k < n) :
    (hexText ds v n)[n - 1 - k]? = ds[(v >>> (4 * k)) &&& 0xF]? := by
  induction n with
  | zero => exact absurd hk k.not_lt_zero
  | succ n ih =>
    rw [hexText, Nat.add_sub_cancel]
    by_cases hlast : k = n
    · have hdigit : (v >>> (4 * n)) &&& 0xF < ds.length := hds ▸ Nat.lt_succ_of_le Nat.and_le_right
      rw [hlast, Nat.sub_self, List.getElem?_cons_zero, List.getD_eq_getElem _ _ hdigit, List.getElem?_eq_getElem hdigit]
    · rw [show n - k = n - 1 - k + 1 by omega, List.getElem?_cons_succ, ih (by omega)]

/-- Settles O26: the lemmas on an alphabet of sixteen digits, at the two alphabets. -/
theorem hexTextDigitByDigit : Obligations.HexTextDigitByDigit := by
  unfold Obligations.HexTextDigitByDigit
  exact ⟨fun v n => ⟨hexLc_length v n, hexUc_length v n⟩,
    fun v n k hk => ⟨getElem?_hexText (ds := lowerDigits) rfl v hk, getElem?_hexText (ds := upperDigits) rfl v hk⟩⟩

/-! ### The operand text and the columns -/

/-- The operand text is the operand texts with one space between (R197). -/
theorem operandsText_eq_intercalate : ∀ ops : List Operand, operandsText ops = List.intercalate [' '] (ops.map operandText)
  | [] => rfl
  | [o] => (List.append_nil _).symm
  | o :: p :: rest => by
    simp only [operandsText, operandsText_eq_intercalate (p :: rest), List.map_cons, List.intercalate_cons_cons,
      List.append_assoc, List.singleton_append]

/-- Settles O28: by recursion on the list of operands; the examples are single lists. -/
theorem operandTextsJoinedByOneSpace : Obligations.OperandTextsJoinedByOneSpace := by
  unfold Obligations.OperandTextsJoinedByOneSpace
  exact ⟨operandsText_eq_intercalate, rfl, rfl, rfl, rfl, rfl⟩

/-- `DecodeWord` at an address of `memory` (R109). -/
theorem decodeWord_of_lt {address : Nat} (h : address < 0x1000) (w : Word) :
    decodeWord address w = some (lineHead address w ++ lineTail (dispatch w) (operands (dispatch w) (fields w)) ++ ['\n']) := by
  rw [decodeWord, lineOf_eq, if_pos h]
  rfl

/-- Settles O27: the head and the tail of a line, taken apart into their columns. -/
theorem lineIsItsColumns : Obligations.LineIsItsColumns := by
  unfold Obligations.LineIsItsColumns
  refine ⟨fun address w h => ?_, rfl, rfl⟩
  rw [decodeWord_of_lt (Nat.lt_succ_of_le h)]
  simp [lineHead, lineTail]

/-! ### The table -/

/-- The five `source` rows and the thirty-three others (R199). -/
theorem textTable_ground_counts :
    (entries.filter fun e => (textTable e).ground = .source).length = 5
    ∧ (entries.filter fun e => (textTable e).ground = .decision).length = 33 := by decide

/-- Every row's token is one of the 21, and has 2 to 4 characters (R191, R199). -/
theorem textTable_mnemonic (e : Entry) :
    (textTable e).mnemonic ∈ mnemonicTokens ∧ (textTable e).mnemonic.length ∈ [2, 3, 4] := by
  cases e <;> decide

/-- Every token names some entry (R199). -/
theorem exists_entry_of_mnemonic : ∀ m ∈ mnemonicTokens, ∃ e ∈ entries, (textTable e).mnemonic = m := by decide

/-- The tokens that are not shared name one entry each (R199). -/
theorem entries_of_unshared_mnemonic :
    ∀ m ∈ mnemonicTokens, m ∉ [['L', 'D'], ['A', 'D', 'D'], ['J', 'P'], ['S', 'E'], ['S', 'N', 'E'], ['?', '?', '?']] →
      (entries.filter fun e => (textTable e).mnemonic = m).length = 1 := by decide

/-- Settles O29: the counts of the rows and of the tokens. -/
theorem textTableCounts : Obligations.TextTableCounts := by
  unfold Obligations.TextTableCounts
  obtain ⟨hsource, hdecision⟩ := textTable_ground_counts
  exact ⟨rfl, by decide, Laws.mem_entries, hsource, hdecision, fun e _ => textTable_mnemonic e, exists_entry_of_mnemonic, rfl,
    by decide, rfl, by decide, by decide, by decide, by decide, by decide, by decide, entries_of_unshared_mnemonic⟩

end Sys2Proof.Machine
end

section
/-! PROOFS. The grammar of a line (spec/47_line_format.md R203): every column of a line the decoder produces is a word of it,
and what the grammar says of the characters (R198). -/

namespace Sys2Proof.Machine

/-! ### The columns of a line -/

theorem isHexRun_hexLc (v n : Nat) : IsHexRun n (hexLc v n) := ⟨hexLc_length v n, fun _ h => mem_hexText rfl h⟩

/-- A literal column of the table is a literal of the grammar or `V0` (R199). -/
theorem textTable_lit {e : Entry} {token : Text} (h : .lit token ∈ (textTable e).ops) :
    token = ['V', '0'] ∨ token ∈ literalTokens := by
  cases e <;> simp_all [textTable, xKK, xY, literalTokens]

/-- The operand of every column of the table is an operand of the grammar (R195, R203). -/
theorem isOperandText_instantiate {e : Entry} {t : OperandTemplate} (h : t ∈ (textTable e).ops) (f : Fields) :
    IsOperandText (operandText (instantiate f t)) := by
  have register (r : Nibble) : IsOperandText (operandText (.reg r)) :=
    .inl ⟨_, mem_hexText (ds := upperDigits) (v := r.toNat) (n := 1) rfl (List.mem_singleton_self _), rfl⟩
  cases t with
  | regB => exact register f.b
  | regC => exact register f.c
  | byteKK => exact .inr (.inl ⟨_, .inl (isHexRun_hexLc _ 2), rfl⟩)
  | addrNNN => exact .inr (.inr (.inl ⟨_, isHexRun_hexLc _ 3, rfl⟩))
  | nibD => exact .inr (.inl ⟨_, .inr (isHexRun_hexLc _ 1), rfl⟩)
  | lit token =>
    rcases textTable_lit h with rfl | h
    · exact register 0x0#4
    · exact .inr (.inr (.inr h))

/-- Each text of the operand list of an entry is an operand of the grammar. -/
theorem isOperandText_of_mem {e : Entry} {f : Fields} {o : Text} (h : o ∈ (operands e f).map operandText) :
    IsOperandText o := by
  simp only [operands, List.map_map, List.mem_map, Function.comp_apply] at h
  obtain ⟨t, ht, rfl⟩ := h
  exact isOperandText_instantiate ht f

/-- No row has more than three operands (R199). -/
theorem textTable_ops_length_le (e : Entry) : (textTable e).ops.length ≤ 3 := by cases e <;> decide

@[simp] theorem operands_length (e : Entry) (f : Fields) : (operands e f).length = (textTable e).ops.length :=
  List.length_map _

@[simp] theorem operands_eq_nil_iff {e : Entry} {f : Fields} : operands e f = [] ↔ (textTable e).ops = [] :=
  List.map_eq_nil_iff

/-- The operand text of an entry that takes operands fits the grammar (R203). -/
theorem isOperandsText_operandsText {e : Entry} (h : (textTable e).ops ≠ []) (f : Fields) :
    IsOperandsText (operandsText (operands e f)) := by
  refine ⟨(operands e f).map operandText, ?_, ?_, fun o => isOperandText_of_mem, operandsText_eq_intercalate _⟩
  · rw [List.length_map, operands_length]
    exact List.length_pos_iff.mpr h
  · rw [List.length_map, operands_length]
    exact textTable_ops_length_le e

/-- The text of an entry without operands is its token (R191). -/
theorem lineTail_of_no_ops {e : Entry} (h : (textTable e).ops = []) (f : Fields) :
    lineTail e (operands e f) = (textTable e).mnemonic := by
  rw [lineTail, operands_eq_nil_iff.mpr h, mnemonicField, if_pos rfl, operandsText, List.append_nil]

/-- The text of an entry with operands is its token, padded to the operand column, and the operand text (R191). -/
theorem lineTail_of_ops_ne_nil {e : Entry} (h : (textTable e).ops ≠ []) (f : Fields) :
    lineTail e (operands e f)
      = (textTable e).mnemonic ++ spaces (8 - (textTable e).mnemonic.length) ++ operandsText (operands e f) := by
  rw [lineTail, mnemonicField, if_neg (mt operands_eq_nil_iff.mp h)]
  rfl

/-- A token of the grammar and what follows it in its columns: nothing, or the padding and the operands (R203). -/
theorem lineTail_eq_mnemonic_append (e : Entry) (f : Fields) :
    ∃ rest, (rest = [] ∨ ∃ ops, IsOperandsText ops ∧ rest = spaces (8 - (textTable e).mnemonic.length) ++ ops)
      ∧ lineTail e (operands e f) = (textTable e).mnemonic ++ rest := by
  by_cases h : (textTable e).ops = []
  · exact ⟨[], .inl rfl, by rw [lineTail_of_no_ops h, List.append_nil]⟩
  · refine ⟨_, .inr ⟨_, isOperandsText_operandsText h f, rfl⟩, ?_⟩
    rw [lineTail_of_ops_ne_nil h, List.append_assoc]

/-- Settles O34: each column of the line is its part of the grammar. -/
theorem everyLineFitsTheGrammar : Obligations.EveryLineFitsTheGrammar := by
  unfold Obligations.EveryLineFitsTheGrammar
  intro address w l h
  obtain ⟨rest, hrest, htail⟩ := lineTail_eq_mnemonic_append (dispatch w) (fields w)
  refine ⟨hexLc address 3, hexLc w.toNat 4, (textTable (dispatch w)).mnemonic, rest, isHexRun_hexLc _ 3, isHexRun_hexLc _ 4,
    (textTable_mnemonic (dispatch w)).1, hrest, ?_⟩
  rw [decodeWord_eq_some h, afterAddress, htail]
  simp

/-! ### The characters of a line -/

/-- A visible 7-bit character: neither a space nor a control character (R198). -/
def IsVisible (c : Char) : Prop := 0x20 < c.toNat ∧ c.toNat < 0x7F

theorem IsVisible.ne_space {c : Char} (h : IsVisible c) : c ≠ ' ' := fun hc => by
  subst hc
  exact absurd h.1 (by decide)

/-- A hexadecimal run of the grammar is visible. -/
theorem IsHexRun.visible {n : Nat} {t : Text} (h : IsHexRun n t) {c : Char} (hc : c ∈ t) : IsVisible c := by
  have digits : ∀ c ∈ lowerDigits, IsVisible c := by simp [lowerDigits, IsVisible]
  exact digits c (h.2 c hc)

/-- An operand of the grammar is visible: a space in it would be taken for the separator. -/
theorem IsOperandText.visible {t : Text} (h : IsOperandText t) {c : Char} (hc : c ∈ t) : IsVisible c := by
  have upper : ∀ c ∈ upperDigits, IsVisible c := by simp [upperDigits, IsVisible]
  have literals : ∀ t ∈ literalTokens, ∀ c ∈ t, IsVisible c := by simp [literalTokens, IsVisible]
  have marks : IsVisible 'V' ∧ IsVisible '0' ∧ IsVisible 'x' ∧ IsVisible '@' := by simp [IsVisible]
  obtain ⟨hV, h0, hx, hat⟩ := marks
  rcases h with ⟨u, hu, rfl⟩ | ⟨d, hd, rfl⟩ | ⟨d, hd, rfl⟩ | ht
  · rcases List.mem_cons.mp hc with rfl | hc
    · exact hV
    · exact upper c (List.mem_singleton.mp hc ▸ hu)
  · rcases List.mem_cons.mp hc with rfl | hc
    · exact h0
    rcases List.mem_cons.mp hc with rfl | hc
    · exact hx
    · exact hd.elim (·.visible hc) (·.visible hc)
  · rcases List.mem_cons.mp hc with rfl | hc
    · exact hat
    · exact hd.visible hc
  · exact literals t ht c hc

/-- A character of texts joined by a space is the space or a character of one of them. -/
theorem mem_intercalate_space {c : Char} : ∀ {ts : List Text}, c ∈ List.intercalate [' '] ts → c = ' ' ∨ ∃ t ∈ ts, c ∈ t
  | [], h => by cases h
  | [t], h => .inr ⟨t, List.mem_singleton_self t, by rwa [List.intercalate_singleton] at h⟩
  | t :: u :: rest, h => by
    rw [List.intercalate_cons_cons, List.mem_append, List.mem_append, List.mem_singleton] at h
    rcases h with (h | h) | h
    · exact .inr ⟨t, List.mem_cons_self, h⟩
    · exact .inl h
    · exact (mem_intercalate_space h).imp_right fun ⟨t', ht', hc⟩ => ⟨t', List.mem_cons_of_mem t ht', hc⟩

/-- Before its line feed, a line of the grammar has visible characters and spaces only (R198, R203). -/
theorem IsLine.body {l : Line} (h : IsLine l) : ∃ body, l = body ++ ['\n'] ∧ ∀ c ∈ body, c = ' ' ∨ IsVisible c := by
  obtain ⟨address, word, mnemonic, rest, haddress, hword, hmnemonic, hrest, rfl⟩ := h
  have tokens : ∀ t ∈ mnemonicTokens, ∀ c ∈ t, IsVisible c := by simp [mnemonicTokens, IsVisible]
  have marks : IsVisible '0' ∧ IsVisible 'x' ∧ IsVisible '@' := by simp [IsVisible]
  obtain ⟨h0, hx, hat⟩ := marks
  have pad (n : Nat) {c : Char} (hc : c ∈ spaces n) : c = ' ' := List.eq_of_mem_replicate hc
  refine ⟨_, rfl, fun c hc => ?_⟩
  simp only [List.mem_append, List.mem_cons, List.not_mem_nil, or_false] at hc
  rcases hc with (((((((rfl | hc) | hc) | rfl | rfl) | hc) | hc) | hc) | hc)
  · exact .inr hat
  · exact .inr (haddress.visible hc)
  · exact .inl (pad 5 hc)
  · exact .inr h0
  · exact .inr hx
  · exact .inr (hword.visible hc)
  · exact .inl (pad 4 hc)
  · exact .inr (tokens mnemonic hmnemonic c hc)
  · rcases hrest with rfl | ⟨ops, ⟨os, -, -, hos, rfl⟩, rfl⟩
    · cases hc
    rcases List.mem_append.mp hc with hc | hc
    · exact .inl (pad _ hc)
    · exact (mem_intercalate_space hc).imp_right fun ⟨o, ho, hc⟩ => (hos o ho).visible hc

/-- Settles O33: the line fits the grammar, whose characters before the line feed are spaces and visible ones. -/
theorem lineIsAsciiWithOneTerminator : Obligations.LineIsAsciiWithOneTerminator := by
  unfold Obligations.LineIsAsciiWithOneTerminator
  intro address w l h
  obtain ⟨body, rfl, hbody⟩ := (everyLineFitsTheGrammar address w l h).body
  have code : ∀ c ∈ body, 0x20 ≤ c.toNat ∧ c.toNat < 0x7F := fun c hc => by
    rcases hbody c hc with rfl | ⟨hlo, hhi⟩
    · decide
    · exact ⟨hlo.le, hhi⟩
  refine ⟨fun c hc => ?_, body, rfl, fun hc => absurd (code _ hc).1 (by decide)⟩
  rcases List.mem_append.mp hc with hc | hc
  · exact (code c hc).2.trans (by decide)
  · rw [List.mem_singleton.mp hc]
    decide

end Sys2Proof.Machine
end

section
/-! PROOFS. The columns of a line, and what a line tells (spec/47_line_format.md R200, R201): the address and the word from
its head, the token and the operand text from its tail. -/

namespace Sys2Proof.Machine

open Sys2Proof.Laws

/-! ### The columns -/

/-- A row without operands has a token of three characters (R199). -/
theorem textTable_mnemonic_length_of_no_ops {e : Entry} (h : (textTable e).ops = []) :
    (textTable e).mnemonic.length = 3 := by
  have table : ∀ e ∈ entries, (textTable e).ops = [] → (textTable e).mnemonic.length = 3 := by decide
  exact table e (mem_entries e) h

/-- No token is longer than four characters (R191). -/
theorem textTable_mnemonic_length_le (e : Entry) : (textTable e).mnemonic.length ≤ 4 := by
  have h := (textTable_mnemonic e).2
  simp only [List.mem_cons, List.not_mem_nil, or_false] at h
  omega

/-- The operand text of a row has one length whatever the fields: 9 for `DRW`, less for every other row (R199). -/
theorem operandsText_length_le (e : Entry) (f : Fields) : (operandsText (operands e f)).length ≤ 9 := by
  cases e <;> exact Nat.le_of_ble_eq_true rfl

/-- The operand text stands eight columns after the mnemonic; without operands nothing stands there (R191). -/
theorem lineTail_drop (e : Entry) (f : Fields) :
    (lineTail e (operands e f)).drop 8 = operandsText (operands e f) := by
  by_cases h : (textTable e).ops = []
  · rw [lineTail_of_no_ops h, operands_eq_nil_iff.mpr h,
      List.drop_of_length_le ((textTable_mnemonic_length_le e).trans (by decide)), operandsText]
  · exact List.drop_left' (mnemonicField_length e (mt operands_eq_nil_iff.mp h))

/-- The length of the text from the mnemonic on. -/
theorem lineTail_length_bounds (e : Entry) (f : Fields) :
    3 ≤ (lineTail e (operands e f)).length ∧ (lineTail e (operands e f)).length ≤ 17 := by
  by_cases h : (textTable e).ops = []
  · rw [lineTail_of_no_ops h, textTable_mnemonic_length_of_no_ops h]
    decide
  · rw [lineTail, List.length_append, mnemonicField_length e (mt operands_eq_nil_iff.mp h)]
    have := operandsText_length_le e f
    omega

/-- The lines `DecodeWord` gives (R109). -/
theorem decodeWord_eq_some_iff {address : Nat} {w : Word} {l : Line} :
    decodeWord address w = some l ↔ address < 0x1000
      ∧ l = lineHead address w ++ lineTail (dispatch w) (operands (dispatch w) (fields w)) ++ ['\n'] := by
  by_cases h : address < 0x1000
  · rw [decodeWord_of_lt h, Option.some_inj, eq_comm, and_iff_right h]
  · rw [decodeWord, lineOf_eq, if_neg h]
    simp [h]

/-- Settles O30: the marks stand in the head, which has 19 characters; the mnemonic field has 8. -/
theorem lineColumnsAndLength : Obligations.LineColumnsAndLength := by
  unfold Obligations.LineColumnsAndLength
  refine ⟨fun address w l h => ?_, rfl, by decide⟩
  have htail := drop_of_decodeWord h
  obtain ⟨-, hl⟩ := decodeWord_eq_some_iff.mp h
  refine ⟨by rw [hl]; rfl, by rw [hl]; rfl, by rw [hl]; rfl, ?_, fun hops => ?_, ?_⟩
  · obtain ⟨rest, -, hm⟩ := lineTail_eq_mnemonic_append (dispatch w) (fields w)
    rw [htail, hm, List.append_assoc]
    exact ⟨_, rfl⟩
  · have hfit : 8 ≤ (lineTail (dispatch w) (operands (dispatch w) (fields w))).length := by
      rw [lineTail, List.length_append, mnemonicField_length _ (mt operands_eq_nil_iff.mp hops)]
      exact Nat.le_add_right 8 _
    rw [show 27 = 19 + 8 from rfl, ← List.drop_drop, htail, List.drop_append_of_le_length hfit, lineTail_drop]
  · have hbounds := lineTail_length_bounds (dispatch w) (fields w)
    rw [hl, List.length_append, List.length_append, lineHead_length, List.length_singleton]
    omega

/-! ### The head: address and word -/

/-- The columns after the address determine the word, which they show whole (R194). -/
theorem afterAddress_inj {w w' : Word} (h : afterAddress w = afterAddress w') : w = w' := by
  simp only [afterAddress, List.append_assoc, List.append_cancel_left_eq] at h
  have hdigits := (List.append_inj h (by rw [hexLc_length, hexLc_length])).1
  exact BitVec.eq_of_toNat_eq (hexLc_inj w.isLt w'.isLt hdigits)

/-- Settles O31: three digits determine the address, which is below 0x1000, and four the word. -/
theorem lineDeterminesAddressAndWord : Obligations.LineDeterminesAddressAndWord := by
  unfold Obligations.LineDeterminesAddressAndWord
  intro a a' w w' l h h'
  have hline := (decodeWord_eq_some h).symm.trans (decodeWord_eq_some h')
  obtain ⟨haddress, hword⟩ := List.append_inj (List.cons.inj hline).2 (by rw [hexLc_length, hexLc_length])
  exact ⟨hexLc_inj (decodeWord_eq_some_iff.mp h).1 (decodeWord_eq_some_iff.mp h').1 haddress, afterAddress_inj hword⟩

/-! ### The tail: token and operand text -/

theorem textTable_mnemonic_ne_space {e : Entry} {c : Char} (h : c ∈ (textTable e).mnemonic) : c ≠ ' ' := by
  have tokens : ∀ t ∈ mnemonicTokens, ' ' ∉ t := by decide
  rintro rfl
  exact tokens _ (textTable_mnemonic e).1 h

/-- The token is the text up to the first space (R191). -/
theorem lineTail_takeWhile (e : Entry) (f : Fields) :
    (lineTail e (operands e f)).takeWhile (· ≠ ' ') = (textTable e).mnemonic := by
  have token : ∀ c ∈ (textTable e).mnemonic, decide (c ≠ ' ') = true :=
    fun c hc => decide_eq_true (textTable_mnemonic_ne_space hc)
  by_cases h : (textTable e).ops = []
  · rw [lineTail_of_no_ops h]
    exact List.takeWhile_eq_self_iff.mpr token
  · obtain ⟨k, hk⟩ : ∃ k, 8 - (textTable e).mnemonic.length = k + 1 :=
      ⟨7 - (textTable e).mnemonic.length, by have := textTable_mnemonic_length_le e; omega⟩
    rw [lineTail_of_ops_ne_nil h, hk, List.append_assoc, List.takeWhile_append_of_pos token]
    exact List.append_nil _

theorem IsOperandText.ne_nil {t : Text} (h : IsOperandText t) : t ≠ [] := by
  rintro rfl
  rcases h with ⟨u, -, h⟩ | ⟨d, -, h⟩ | ⟨d, -, h⟩ | h
  · cases h
  · cases h
  · cases h
  · exact absurd h (by decide)

/-- The operand texts are read back from their joined form, because none contains a space (R197). -/
theorem splitOn_operandsText {e : Entry} (h : (textTable e).ops ≠ []) (f : Fields) :
    (operandsText (operands e f)).splitOn ' ' = (operands e f).map operandText := by
  rw [operandsText_eq_intercalate]
  refine List.splitOn_intercalate ' ' (fun t ht hspace => ?_) ?_
  · exact ((isOperandText_of_mem ht).visible hspace).ne_space rfl
  · exact mt List.map_eq_nil_iff.mp (mt operands_eq_nil_iff.mp h)

/-- Only an entry without operands has an empty operand text. -/
theorem operandsText_eq_nil_iff {e : Entry} {f : Fields} : operandsText (operands e f) = [] ↔ (textTable e).ops = [] := by
  refine ⟨fun h => by_contra fun hops => ?_, fun h => by rw [operands_eq_nil_iff.mpr h, operandsText]⟩
  have hsplit := splitOn_operandsText hops f
  rw [h, List.splitOn_nil] at hsplit
  exact (isOperandText_of_mem (hsplit ▸ List.mem_singleton_self [])).ne_nil rfl

/-- Equal operand texts are equal operand by operand. -/
theorem operandsText_eq_iff {e e' : Entry} {f f' : Fields} :
    operandsText (operands e f) = operandsText (operands e' f')
      ↔ (operands e f).map operandText = (operands e' f').map operandText := by
  refine ⟨fun h => ?_, fun h => by rw [operandsText_eq_intercalate, h, ← operandsText_eq_intercalate]⟩
  by_cases hops : (textTable e).ops = []
  · have hops' := operandsText_eq_nil_iff.mp (h.symm.trans (operandsText_eq_nil_iff.mpr hops))
    rw [operands_eq_nil_iff.mpr hops, operands_eq_nil_iff.mpr hops']
  · have hops' : (textTable e').ops ≠ [] := fun h' =>
      hops (operandsText_eq_nil_iff.mp (h.trans (operandsText_eq_nil_iff.mpr h')))
    rw [← splitOn_operandsText hops, ← splitOn_operandsText hops', h]

/-- The tail is the token and the operand text, and both are read back from it (R201). -/
theorem lineTail_eq_iff {e e' : Entry} {f f' : Fields} :
    lineTail e (operands e f) = lineTail e' (operands e' f')
      ↔ (textTable e).mnemonic = (textTable e').mnemonic
        ∧ operandsText (operands e f) = operandsText (operands e' f') := by
  constructor
  · intro h
    rw [← lineTail_takeWhile e f, ← lineTail_takeWhile e' f', ← lineTail_drop, ← lineTail_drop, h]
    exact ⟨rfl, rfl⟩
  · rintro ⟨hm, ho⟩
    by_cases hops : (textTable e).ops = []
    · have hops' := operandsText_eq_nil_iff.mp (ho.symm.trans (operandsText_eq_nil_iff.mpr hops))
      rw [lineTail_of_no_ops hops, lineTail_of_no_ops hops', hm]
    · have hops' : (textTable e').ops ≠ [] := fun h' =>
        hops (operandsText_eq_nil_iff.mp (ho.trans (operandsText_eq_nil_iff.mpr h')))
      rw [lineTail_of_ops_ne_nil hops, lineTail_of_ops_ne_nil hops', hm, ho]

/-- Two lines agree from column 19 on exactly when their tails are the same text. -/
theorem drop_eq_drop_iff {a a' : Nat} {w w' : Word} {l l' : Line} (h : decodeWord a w = some l)
    (h' : decodeWord a' w' = some l') :
    l.drop 19 = l'.drop 19 ↔ lineTail (dispatch w) (operands (dispatch w) (fields w))
      = lineTail (dispatch w') (operands (dispatch w') (fields w')) := by
  rw [drop_of_decodeWord h, drop_of_decodeWord h', List.append_left_inj]

/-! ### The entry and its printed fields from the text -/

/-- The first character an operand column prints, whatever the fields (R195). -/
def columnHead : OperandTemplate → Option Char
  | .regB | .regC => some 'V'
  | .byteKK | .nibD => some '0'
  | .addrNNN => some '@'
  | .lit token => token.head?

theorem head?_operandText (f : Fields) (t : OperandTemplate) : (operandText (instantiate f t)).head? = columnHead t := by
  cases t <;> rfl

/-- Two rows of the table with one token and the same first characters are one row, or `UNK_E` and `UNK_F` (R199). -/
theorem entry_of_mnemonic_heads {e e' : Entry} (hm : (textTable e).mnemonic = (textTable e').mnemonic)
    (hh : (textTable e).ops.map columnHead = (textTable e').ops.map columnHead) :
    e = e' ∨ e = .UNK_E ∧ e' = .UNK_F ∨ e = .UNK_F ∧ e' = .UNK_E := by
  have table : ∀ e ∈ entries, ∀ e' ∈ entries, (textTable e).mnemonic = (textTable e').mnemonic →
      (textTable e).ops.map columnHead = (textTable e').ops.map columnHead →
      e = e' ∨ e = .UNK_E ∧ e' = .UNK_F ∨ e = .UNK_F ∧ e' = .UNK_E := by decide
  exact table e (mem_entries e) e' (mem_entries e') hm hh

/-- The operand a column builds is determined by its text. -/
theorem instantiate_eq_of_operandText_eq {f f' : Fields} {t : OperandTemplate}
    (h : operandText (instantiate f t) = operandText (instantiate f' t)) : instantiate f t = instantiate f' t := by
  cases t with
  | regB => exact congrArg _ (BitVec.eq_of_toNat_eq (hexUc_inj f.b.isLt f'.b.isLt (List.cons.inj h).2))
  | regC => exact congrArg _ (BitVec.eq_of_toNat_eq (hexUc_inj f.c.isLt f'.c.isLt (List.cons.inj h).2))
  | byteKK => exact congrArg _ (BitVec.eq_of_toNat_eq (hexLc_inj f.kk.isLt f'.kk.isLt (List.append_cancel_left h)))
  | addrNNN => exact congrArg _ (BitVec.eq_of_toNat_eq (hexLc_inj f.nnn.isLt f'.nnn.isLt (List.cons.inj h).2))
  | nibD => exact congrArg _ (BitVec.eq_of_toNat_eq (hexLc_inj f.d.isLt f'.d.isLt (List.append_cancel_left h)))
  | lit token => rfl

/-- `UNK_E` and `UNK_F` print the same text for the same byte (log entry 14). -/
theorem lineTail_unkE_eq_unkF_iff {f f' : Fields} :
    lineTail .UNK_E (operands .UNK_E f) = lineTail .UNK_F (operands .UNK_F f') ↔ f.kk = f'.kk := by
  refine ⟨fun h => ?_, fun h => ?_⟩
  · have htext : operandText (instantiate f .byteKK) = operandText (instantiate f' .byteKK) := (lineTail_eq_iff.mp h).2
    exact Operand.byte.inj (instantiate_eq_of_operandText_eq htext)
  · show lineTail .UNK_F [.byte f.kk] = lineTail .UNK_F [.byte f'.kk]
    rw [h]

/-- The tail of one entry determines the operands it prints. -/
theorem lineTail_inj {e : Entry} {f f' : Fields} :
    lineTail e (operands e f) = lineTail e (operands e f') ↔ operands e f = operands e f' := by
  refine ⟨fun h => ?_, fun h => by rw [h]⟩
  have htexts := operandsText_eq_iff.mp (lineTail_eq_iff.mp h).2
  simp only [operands, List.map_map, List.map_inj_left] at htexts ⊢
  exact fun t ht => instantiate_eq_of_operandText_eq (htexts t ht)

/-- What equal tails say of the entries: the same one with the same operands, or `UNK_E` and `UNK_F` with the same byte. -/
theorem lineTail_eq_iff_entry {e e' : Entry} {f f' : Fields} :
    lineTail e (operands e f) = lineTail e' (operands e' f')
      ↔ (e = e' ∧ operands e f = operands e' f')
        ∨ ((e = .UNK_E ∧ e' = .UNK_F ∨ e = .UNK_F ∧ e' = .UNK_E) ∧ f.kk = f'.kk) := by
  constructor
  · intro h
    obtain ⟨hm, ho⟩ := lineTail_eq_iff.mp h
    have heads : (textTable e).ops.map columnHead = (textTable e').ops.map columnHead := by
      have htexts := congrArg (List.map List.head?) (operandsText_eq_iff.mp ho)
      simpa only [operands, List.map_map, Function.comp_def, head?_operandText] using htexts
    rcases entry_of_mnemonic_heads hm heads with rfl | ⟨rfl, rfl⟩ | ⟨rfl, rfl⟩
    · exact .inl ⟨rfl, lineTail_inj.mp h⟩
    · exact .inr ⟨.inl ⟨rfl, rfl⟩, lineTail_unkE_eq_unkF_iff.mp h⟩
    · exact .inr ⟨.inr ⟨rfl, rfl⟩, (lineTail_unkE_eq_unkF_iff.mp h.symm).symm⟩
  · rintro (⟨rfl, ho⟩ | ⟨⟨rfl, rfl⟩ | ⟨rfl, rfl⟩, hk⟩)
    · exact lineTail_inj.mpr ho
    · exact lineTail_unkE_eq_unkF_iff.mpr hk
    · exact (lineTail_unkE_eq_unkF_iff.mpr hk.symm).symm

/-- Settles O32: a tail gives back its token and its operand text, and these the entry and the operands, save that `UNK_E`
and `UNK_F` share theirs. -/
theorem tailIsMnemonicAndOperands : Obligations.TailIsMnemonicAndOperands := by
  unfold Obligations.TailIsMnemonicAndOperands
  refine ⟨fun a a' w w' l l' h h' => (drop_eq_drop_iff h h').trans lineTail_eq_iff,
    fun a a' w w' l l' h h' => (drop_eq_drop_iff h h').trans lineTail_eq_iff_entry,
    fun b b' kk l l' hE hF h h' => (drop_eq_drop_iff h h').mpr ?_⟩
  have dispatchE : dispatch (0xE#4 ++ (b ++ kk)) = .UNK_E :=
    dispatch_unkE (by rw [fields_append_byte]) (by rw [fields_append_byte]; exact hE)
  have dispatchF : dispatch (0xF#4 ++ (b' ++ kk)) = .UNK_F :=
    dispatch_unkF (by rw [fields_append_byte]) (by rw [fields_append_byte]; exact hF)
  rw [dispatchE, dispatchF, lineTail_unkE_eq_unkF_iff, fields_append_byte, fields_append_byte]

end Sys2Proof.Machine
end

section
/-! PROOFS. The errors of `load` (spec/60_exceptions.md R210 to R215): the phase, the error returned and what is left as it
was, from the values of an empty buffer and the state an error leaves. -/

namespace Sys2Proof.Machine

/-- Every source is answered (R92). -/
theorem loadSource_completes (s : State) (src : Source) : ∃ t, loadSource s src = .next t := by
  rcases loadSource_cases s src with ⟨-, h⟩ | h | ⟨_, _, -, -, h⟩ | ⟨_, -, -, h⟩ <;> exact ⟨_, h⟩

/-- A source that is not accepted ends in an error (R92, R210). -/
theorem loadSource_rejected {src : Source} (h : src.accepted = false) (s : State) :
    ∃ k n, loadSource s src = .next (raiseError k (scrambled n s)) := by
  obtain ⟨t, ht⟩ := loadSource_completes s src
  rcases loadSource_next ht with ⟨-, k, n, -, rfl⟩ | ⟨hacc, -⟩
  · exact ⟨k, n, ht⟩
  · cases h.symm.trans hacc

/-- In `FAILED` with no request waiting the run has ended in failure (R222, R245). -/
theorem step_failed {s : State} (hp : s.phase = .failed) (hr : s.requests = []) : step s = .fault .runFailed := by
  rw [step_over hr (driverMove_none.mpr (.inl hp)), runOver, if_pos hp]

/-- Settles O40: a source that is too long raises the error before any byte is copied; 3584 is the capacity. -/
theorem capacityErrorCopiesNothing : Obligations.CapacityErrorCopiesNothing := by
  unfold Obligations.CapacityErrorCopiesNothing
  intro s src rest hp c hr
  obtain ⟨hlen, -, hpc, hzero⟩ := c.empty_values hp
  constructor
  · rintro bs rfl hn
    exact ⟨_, _, (step_load hp hr).trans (loadSource_bytes_over hn), rfl, hzero, hlen, hpc, rfl, rfl, rfl, rfl⟩
  · rintro bs rfl hn
    exact ⟨_, step_load_bytes hp hr hn.le, rfl, (loadedWith_loadedLength_toNat _ _ hn.le).trans hn⟩

/-- Settles O41: the three errors in the order of the checks; a short read writes inside the bytes of its source only. -/
theorem inputOutputErrors : Obligations.InputOutputErrors := by
  unfold Obligations.InputOutputErrors
  intro s src rest hp c hr
  obtain ⟨hlen, hout, hpc, -⟩ := c.empty_values hp
  refine ⟨?_, ?_, ?_⟩
  · rintro rfl
    exact ⟨_, _, step_load hp hr, rfl, hlen, hpc, hout, rfl, rfl, rfl, rfl⟩
  · rintro got lack rfl hn
    have hstep := (step_load hp hr).trans (loadSource_short hn)
    obtain ⟨vs, hvs, hmem⟩ := step_load_short_memory hr hn hstep
    have hfit : 0x200 + vs.length ≤ Config.memSize := hvs ▸ Nat.add_le_add_left hn 0x200
    refine ⟨_, _, hstep, ?_, fun a ha => ?_, hlen, hpc, hout, rfl, rfl, rfl, rfl⟩
    · rw [hmem]
      exact setBytes_keeps_wf c.memoryWf hfit
    · rw [hmem, get_setBytes_outside a c.memoryWf hfit (hvs ▸ ha)]
  · rintro got lack rfl hn
    exact ⟨_, _, (step_load hp hr).trans (loadSource_short_over hn), rfl, hlen, hpc, hout, rfl, rfl, rfl, rfl⟩

/-- A step that enters `FAILED` is a `load` that raises an error, whatever a short read has written (R215). -/
theorem step_enters_failed {s t : State} (h : step s = .next t) (hs : s.phase ≠ .failed) (ht : t.phase = .failed) :
    s.phase = .empty ∧ ∃ src rest k n, s.requests = .load src :: rest
      ∧ t = raiseError k (scrambled n (s.turn (.load src) rest)) := by
  rcases step_cases h with ⟨rest, -, rfl⟩ | ⟨rest, -, -, rfl⟩ | ⟨rest, -, -, hpc, hx⟩ | ⟨q, rest, -, -, rfl⟩
    | ⟨src, rest, hr, hp, hl⟩ | ⟨-, -, -, rfl⟩
  · cases ht
  · exact absurd ht hs
  · obtain ⟨l, -, rfl⟩ := exec_fetched_next hpc hx
    exact absurd ht hs
  · exact absurd ht hs
  · rcases loadSource_next hl with ⟨-, k, n, -, rfl⟩ | ⟨-, bs, -, rfl⟩
    · exact ⟨hp, src, rest, k, n, hr, rfl⟩
    · cases ht
  · exact absurd ht hs

/-- No other operation than `load` returns an error (R210). -/
theorem step_no_load_no_error {s t : State} (h : step s = .next t) (hr : ∀ src rest, s.requests ≠ .load src :: rest) :
    (∀ e, t.reply ≠ .error e) ∨ t = s := by
  rcases step_cases h with ⟨rest, -, rfl⟩ | ⟨rest, -, -, rfl⟩ | ⟨rest, -, -, hpc, hx⟩ | ⟨q, rest, -, -, rfl⟩
    | ⟨src, rest, hload, -, -⟩ | ⟨-, -, -, rfl⟩
  · exact .inl fun e => Reply.noConfusion
  · exact .inl fun e => Reply.noConfusion
  · obtain ⟨l, -, rfl⟩ := exec_fetched_next hpc hx
    exact .inl fun e => Reply.noConfusion
  · exact .inl fun e => Reply.noConfusion
  · exact absurd hload (hr src rest)
  · exact .inr rfl

/-- Settles O42: by the step that enters `FAILED`, the phase check, and the steps that are no `load`. -/
theorem errorsAreReturnedAndSaveNothing : Obligations.ErrorsAreReturnedAndSaveNothing := by
  unfold Obligations.ErrorsAreReturnedAndSaveNothing
  refine ⟨fun s t h hs ht => ?_, fun s r rest hp hr hne => ?_, fun s t => step_no_load_no_error⟩
  · obtain ⟨hp, src, rest, k, n, hr, rfl⟩ := step_enters_failed h hs ht
    refine ⟨hp, ⟨src, rest, hr, rfl⟩, ⟨_, rfl, ?_⟩, rfl, rfl, rfl⟩
    cases k with
    | capacity => exact .inl rfl
    | io => exact .inr rfl
  · rw [step_request hr]
    exact perform_failed (s := s.turn r rest) hp hne

/-- Settles O56: `init` leads to an empty buffer, from which the source is rejected; then no request waits. -/
theorem failedLoadEndsTheRun : Obligations.FailedLoadEndsTheRun := by
  unfold Obligations.FailedLoadEndsTheRun
  intro s src hsrc hr
  let u := (s.turn .init [.load src]).initialized
  have hinit : step s = .next u := step_init (.inl hr)
  obtain ⟨k, n, hload⟩ := loadSource_rejected hsrc (u.turn (.load src) [])
  have hrun := (run_add 1 (run_one hinit)).trans (run_one ((step_load (s := u) rfl rfl).trans hload))
  refine ⟨⟨_, hrun, rfl, rfl, rfl, rfl, _, rfl⟩, ?_⟩
  rw [run_add 1 hrun, run_succ, step_failed rfl rfl]

end Sys2Proof.Machine
end

section
/-! PROOFS. The steps around the end of the image (spec/70_reset_and_hazards.md R246, R248): a `decode_step` at the end, and
the last one of an odd image. -/

namespace Sys2Proof.Machine

open Sys2Proof.Laws

/-- Settles O44: a step that decodes, at the end. -/
theorem decodeStepAtTheEndDoesNothing : Obligations.DecodeStepAtTheEndDoesNothing := by
  unfold Obligations.DecodeStepAtTheEndDoesNothing
  intro s rest hd he
  rw [step_decodes hd]
  exact decodeStep_at_end (s := s.turn .decodeStep rest) hd.1 he

/-- Settles O57: the last byte stands before the end, and the byte after it is past the loaded region, so zero. -/
theorem oddImageIsPaddedWithZero : Obligations.OddImageIsPaddedWithZero := by
  unfold Obligations.OddImageIsPaddedWithZero
  intro s rest q c hp hd hlen hpc
  have he : isEnd s s.pc.toNat = false := by rw [Bool.eq_false_iff, Ne, isEnd_iff]; omega
  have hword := c.word_in_memory he
  have hpad : Memory.get s.memory (s.pc.toNat + 1) = 0 := c.tailZero (by simp [hp]) _ (by omega)
  obtain ⟨l, hl, hstep⟩ := c.step_completes hd he
  have hnext := emitted_pc_toNat (s := s.turn .decodeStep rest) l (by rw [turn_pc]; omega)
  have hend : ((s.turn .decodeStep rest).emitted l).pc.toNat = 0x200 + s.loadedLength.toNat + 1 := by
    rw [hnext, turn_pc]
    omega
  refine ⟨_, l, hstep, ?_, rfl, hend, ?_⟩
  · rw [decodeAt_eq, if_pos hword, hpad, wordOfBytes_ofNat, show (0 : Byte).toNat = 0 from rfl, Nat.add_zero] at hl
    exact hl
  · rw [isEnd_iff, hend]
    exact Nat.le_succ _

end Sys2Proof.Machine
end

section
/-! PROOFS. Refusals and the driver's protocol (spec/60_exceptions.md R221, R222; spec/70_reset_and_hazards.md R243 to R245): a
request of a good state is refused exactly when it is not admitted by the phase, and one that is performed leaves the position
the protocol expects. -/

namespace Sys2Proof.Machine

/-! ### Admitted and refused requests -/

theorem Inv.turn {s : State} (hs : Inv s) (r : Request) (rest : List Request) : Inv (s.turn r rest) :=
  fun hp => (hs hp).turn r rest

/-- Where the phase admits `decode_step`, a good state is consistent and the step completes (R70, R101). -/
theorem Inv.decodeStep_completes {s : State} (hs : Inv s) (ha : admits s.phase .decodeStep = true) :
    ∃ t, decodeStep s = .next t := by
  have hp := admits_decodeStep ha
  cases he : isEnd s s.pc.toNat with
  | true => exact ⟨_, decodeStep_at_end hp he⟩
  | false =>
    have hword := (hs (running_phase hp).1).word_in_memory he
    rw [decodeStep_before_end hp he, decodeAtCursor_eq, if_pos hword]
    exact ⟨_, exec_completes _ (by omega)⟩

/-- An admitted request of a good state is performed. -/
theorem Inv.perform_completes {s : State} {r : Request} (hs : Inv s) (ha : admits s.phase r.op = true) :
    ∃ t, perform r s = .next t := by
  cases r with
  | init => exact ⟨_, rfl⟩
  | load src =>
    obtain ⟨t, ht⟩ := loadSource_completes s src
    exact ⟨t, (requirePhase_admitted ha _).trans ht⟩
  | isEnd cursor => exact ⟨_, requirePhase_admitted ha _⟩
  | decodeStep => exact hs.decodeStep_completes ha

/-- A request that is not admitted is refused by name (R221). -/
theorem perform_not_admitted {s : State} {r : Request} (ha : admits s.phase r.op = false) :
    perform r s = .refused (.notAdmitted r.op s.phase) := by
  cases r with
  | init => simp [Request.op, admits] at ha
  | load src => exact requirePhase_refused ha _
  | isEnd cursor => exact requirePhase_refused ha _
  | decodeStep => exact requirePhase_refused ha _

/-- The requests out of order, by phase (R221). -/
theorem not_admits_iff (p : Phase) (r : Request) :
    admits p r.op = false ↔
      (p = .uninit ∧ r ≠ .init) ∨ ((∃ src, r = .load src) ∧ (p = .loaded ∨ p = .failed))
        ∨ (p = .failed ∧ ((∃ c, r = .isEnd c) ∨ r = .decodeStep)) := by
  cases r <;> cases p <;> simp [Request.op, admits]

/-- A waiting request of a good state is refused exactly when it is not admitted. -/
theorem Inv.step_refused_iff {s : State} {r : Request} {rest : List Request} (hs : Inv s) (hr : s.requests = r :: rest) :
    (∃ x, step s = .refused x) ↔ admits s.phase r.op = false := by
  rw [step_request hr]
  constructor
  · rintro ⟨x, hx⟩
    by_contra ha
    obtain ⟨t, ht⟩ := (hs.turn r rest).perform_completes (r := r) (Bool.not_eq_false _ ▸ ha)
    cases hx.symm.trans ht
  · exact fun ha => ⟨_, perform_not_admitted (s := s.turn r rest) ha⟩

theorem decodeWord_eq_none_iff (address : Nat) (w : Word) : decodeWord address w = none ↔ 0xFFF < address := by
  simp only [decodeWord, lineOf_eq, ite_eq_right_iff, reduceCtorEq, imp_false]
  omega

theorem memReadWord_eq_none_iff (m : Memory) (address : Nat) : memReadWord m address = none ↔ 0xFFE < address := by
  simp only [memReadWord_eq, ite_eq_right_iff, reduceCtorEq, imp_false]
  omega

theorem decodeAt_eq_none_iff (m : Memory) (address : Nat) : decodeAt m address = none ↔ 0xFFE < address := by
  rw [decodeAt_eq, ite_eq_right_iff, decodeWord_eq_none_iff]
  omega

/-- Settles O51: the phase check decides in a good state, and the pure functions are bounded by the size of `memory`. -/
theorem refusedExactlyOutOfOrder : Obligations.RefusedExactlyOutOfOrder := by
  unfold Obligations.RefusedExactlyOutOfOrder
  exact ⟨fun s r rest hs hr => (hs.step_refused_iff hr).trans (not_admits_iff s.phase r), decodeWord_eq_none_iff,
    memReadWord_eq_none_iff, decodeAt_eq_none_iff⟩

/-! ### The driver's own moves -/

/-- In `EMPTY` and `LOADED` the driver asks `is_end(pc)` (R244). -/
theorem step_driver_asks {s : State} (hr : s.requests = []) (hp : s.phase = .empty ∨ s.phase = .loaded)
    (hd : s.driver = .asks) : step s = .next ((s.turn (.isEnd s.pc.toNat) []).answer (.ended (isEnd s s.pc.toNat))) := by
  have hmove : driverMove s = some (.isEnd s.pc.toNat) := by
    rcases hp with hp | hp <;> rw [driverMove, hp, hd]
  rw [step_driver hr hmove]
  exact requirePhase_admitted (s := s.turn (.isEnd s.pc.toNat) []) (by rcases hp with hp | hp <;> simp [hp, admits]) _

/-- A driver that has terminated with status zero makes no move (R244, R245). -/
theorem step_driver_ended {s : State} (hr : s.requests = []) (hp : s.phase = .empty ∨ s.phase = .loaded)
    (hd : s.driver = .ended) : step s = .next s := by
  rw [step_over hr (driverMove_none.mpr (.inr ⟨hp, hd⟩)), runOver, if_neg (running_phase hp).2]

/-- Settles O59: one lemma for each place of the driver. -/
theorem driverRunsItsLoop : Obligations.DriverRunsItsLoop := by
  unfold Obligations.DriverRunsItsLoop
  intro s hr
  refine ⟨fun hp => ?_, fun hp hd => ?_, fun hp hd c => ?_, fun hp hd => step_driver_ended hr hp hd,
    fun hp => step_failed hp hr⟩
  · exact ⟨_, step_init (.inr ⟨hp, hr, rfl⟩), rfl, rfl, rfl⟩
  · have hdriver := (driverAfter_isEnd s s.pc.toNat).trans (if_pos rfl)
    rw [step_driver_asks hr hp hd, State.turn, hdriver, hr]
    rfl
  · obtain ⟨l, -, hstep⟩ := c.step_completes (rest := []) ⟨hp, .inr ⟨hr, rfl, hd⟩⟩ (c.decodes hd)
    exact ⟨_, l, hstep, rfl, rfl, rfl, rfl, rfl, rfl, rfl, rfl⟩

/-! ### The position after a request -/

/-- The comparison of R94 settles whether the driver decodes next (R244). -/
theorem driverAfter_isEnd_beq (s : State) (cursor : Nat) :
    (driverAfter s (.isEnd cursor) == .decodes)
      = decide (cursor = s.pc.toNat ∧ cursor < 0x200 + s.loadedLength.toNat) := by
  rw [driverAfter_isEnd]
  by_cases hc : cursor = s.pc.toNat
  · subst hc
    by_cases he : s.pc.toNat ≥ 0x200 + s.loadedLength.toNat
    · rw [if_pos rfl, if_pos he, decide_eq_false (fun h => absurd h.2 (Nat.not_lt.mpr he))]
      rfl
    · rw [if_pos rfl, if_neg he, decide_eq_true ⟨rfl, Nat.lt_of_not_le he⟩]
      rfl
  · simp [hc]

/-- A `load` leaves the requests, and the position that R92 and R212 give. -/
theorem loadSource_next_position {s t : State} {src : Source} {rest : List Request}
    (h : loadSource (s.turn (.load src) rest) src = .next t) :
    t.requests = rest ∧ t.position = s.position.after (.load src) := by
  cases src with
  | openFail =>
    cases h
    exact ⟨rfl, rfl⟩
  | short got lack =>
    rcases loadSource_next h with ⟨-, k, n, -, rfl⟩ | ⟨hacc, -⟩
    · exact ⟨rfl, rfl⟩
    · cases hacc
  | bytes bs =>
    by_cases hn : bs.length ≤ 0xE00
    · cases (loadSource_bytes hn).symm.trans h
      refine ⟨rfl, ?_⟩
      rw [Position.after, if_pos hn, State.position, loadedWith_loadedLength_toNat _ _ hn]
      rfl
    · cases (loadSource_bytes_over (Nat.lt_of_not_le hn)).symm.trans h
      refine ⟨rfl, ?_⟩
      rw [Position.after, if_neg hn]
      rfl

/-- A performed `decode_step` moves the position exactly before the end (R100, R101). -/
theorem decodeStep_next_position {s t : State} {rest : List Request}
    (h : decodeStep (s.turn .decodeStep rest) = .next t) :
    t.requests = rest ∧ t.position = s.position.after .decodeStep := by
  obtain ⟨-, ⟨he, rfl⟩ | ⟨he, -, hx⟩⟩ := decodeStep_next h
  · have hle := (isEnd_iff s s.pc.toNat).mp he
    refine ⟨rfl, ?_⟩
    rw [Position.after, if_neg (show ¬ s.position.cursor < 0x200 + s.position.length from Nat.not_lt.mpr hle)]
    rfl
  · obtain ⟨hlt, rfl⟩ := exec_next hx
    have hbefore : ¬ 0x200 + s.loadedLength.toNat ≤ s.pc.toNat := fun hle =>
      absurd ((isEnd_iff s s.pc.toNat).mpr hle) (Bool.eq_false_iff.mp he)
    refine ⟨rfl, ?_⟩
    rw [Position.after, if_pos (show s.position.cursor < 0x200 + s.position.length from Nat.lt_of_not_le hbefore),
      State.position, emitted_pc_toNat _ hlt]
    rfl

/-- A performed request leaves the rest waiting, and the position the protocol expects. -/
theorem perform_next_position {s t : State} {r : Request} {rest : List Request}
    (h : perform r (s.turn r rest) = .next t) : t.requests = rest ∧ t.position = s.position.after r := by
  cases r with
  | init =>
    cases h
    exact ⟨rfl, rfl⟩
  | load src => exact loadSource_next_position (requirePhase_next h).2
  | isEnd cursor =>
    cases (requirePhase_next h).2
    refine ⟨rfl, ?_⟩
    rw [State.position, answer_driver, turn_driver, driverAfter_isEnd_beq]
    rfl
  | decodeStep => exact decodeStep_next_position h

/-! ### The protocol -/

theorem keepsProtocol_cons {p : Position} {r : Request} {rest : List Request} :
    keepsProtocol p (r :: rest) = true ↔
      admits p.phase r.op = true ∧ (r ≠ .decodeStep ∨ p.askedFalse = true) ∧ keepsProtocol (p.after r) rest = true := by
  simp [keepsProtocol, Position.permits, and_assoc]

/-- A driver that keeps the protocol decodes only after the answer false (R244). -/
theorem driver_decodes_of_keepsProtocol {s : State} {rest : List Request}
    (hk : keepsProtocol s.position s.requests = true) (hd : DecodesNext s rest) : s.driver = .decodes := by
  rcases hd with ⟨-, hr | ⟨-, -, hdriver⟩⟩
  · rw [hr, keepsProtocol_cons] at hk
    obtain ⟨-, hne | hasked, -⟩ := hk
    · exact absurd rfl hne
    · exact eq_of_beq hasked
  · exact hdriver

/-- A decode step of a driver that keeps the protocol returns a line and records it. -/
theorem Inv.decode_returns_line {s t : State} {rest : List Request} (hs : Inv s)
    (hk : keepsProtocol s.position s.requests = true) (h : step s = .next t) (hd : DecodesNext s rest) :
    ∃ l, t.reply = .line l ∧ t.out = s.out ++ [l] := by
  have c := hs (running_phase hd.1).1
  obtain ⟨l, -, rfl⟩ := step_decodes_next hd (c.decodes (driver_decodes_of_keepsProtocol hk hd)) h
  exact ⟨l, rfl, rfl⟩

/-- The phase admits every move of the driver's own. -/
theorem driverMove_admitted {s : State} {r : Request} (h : driverMove s = some r) : admits s.phase r.op = true := by
  rcases driverMove_some h with ⟨hp, rfl⟩ | ⟨hp | hp, -, rfl⟩ | ⟨hp | hp, -, rfl⟩ <;> simp [hp, Request.op, admits]

/-- A good state whose requests keep the protocol makes a step to one whose requests keep it, unless the run has failed. -/
theorem Inv.step_keepsProtocol {s : State} (hs : Inv s) (hk : keepsProtocol s.position s.requests = true) :
    (∃ t, step s = .next t ∧ keepsProtocol t.position t.requests = true) ∨ (s.phase = .failed ∧ s.requests = []) := by
  cases hr : s.requests with
  | nil =>
    cases hm : driverMove s with
    | none =>
      rcases driverMove_none.mp hm with hp | ⟨hp, hd⟩
      · exact .inr ⟨hp, rfl⟩
      · exact .inl ⟨s, step_driver_ended hr hp hd, hk⟩
    | some r =>
      obtain ⟨t, ht⟩ := (hs.turn r []).perform_completes (r := r) (driverMove_admitted (s := s) hm)
      obtain ⟨hrest, -⟩ := perform_next_position ht
      exact .inl ⟨t, (step_driver hr hm).trans ht, by rw [hrest]; rfl⟩
  | cons r rest =>
    rw [hr, keepsProtocol_cons] at hk
    obtain ⟨ha, -, hk⟩ := hk
    obtain ⟨t, ht⟩ := (hs.turn r rest).perform_completes (r := r) ha
    obtain ⟨hrest, hpos⟩ := perform_next_position ht
    exact .inl ⟨t, (step_request hr).trans ht, by rw [hpos, hrest]; exact hk⟩

/-- Settles O54: the step keeps the protocol, a decode step under it returns a line, and in failure the run is over. -/
theorem protocolNeverRefused : Obligations.ProtocolNeverRefused := by
  unfold Obligations.ProtocolNeverRefused
  intro s hs hk
  rcases hs.step_keepsProtocol hk with ⟨t, hstep, hkeep⟩ | ⟨hp, hr⟩
  · exact .inl ⟨t, hstep, hkeep, fun rest hd => hs.decode_returns_line hk hstep hd⟩
  · exact .inr ⟨hp, hr, step_failed hp hr⟩

end Sys2Proof.Machine
end
